-- ==== Sys2Proof/Word.lean ====
section
/-! DEFINITION. The word types of the block and the closed sets of names its operations speak of
(spec/00_scope.md R8 and R10, spec/10_state.md R22, R25 and R28, spec/30_encoding.md R92 to R95 and R104). -/

namespace Sys2Proof

/-- A bus datum, `DATA_W` = 8 bits (R7). -/
abbrev Byte := BitVec 8

/-- A bus address as a command carries it, or a handler's 16-bit `param` (R22, R90). -/
abbrev Addr := BitVec 16

/-- A slot number of the bank register file, 5 bits (R92). -/
abbrev Slot := BitVec 5

/-- The two address spaces of the block (R60). -/
inductive Space where
  | cpu
  | ppu
deriving DecidableEq, Repr

/-- The five mirror modes (R28). -/
inductive MirrorMode where
  | horizontal
  | vertical
  | oneScreenA
  | oneScreenB
  | fourScreen
deriving DecidableEq, Repr

/-- One element of `chr_latch` (R38). -/
inductive Latch where
  | undef
  | a
  | b
deriving DecidableEq, Repr

/-- An immutable byte sequence, written as runs: each pair is a count and the byte repeated that often.
A ROM of 48 KB is then a short literal; any sequence of bytes can be written with runs of length 1. -/
abbrev ByteRuns := List (Nat × Byte)

/-- The Rom the environment binds (R25); it has no operation that writes it. -/
structure Rom where
  prg : ByteRuns
  chr : ByteRuns
  mirroring : MirrorMode
  submapper : BitVec 16
  crc32 : BitVec 32
deriving DecidableEq, Repr

/-- The audio sample type, opaque in the spec (R306): a token that is only passed on. -/
structure Sample where
  token : Nat
deriving DecidableEq, Repr

/-- The one side effect a trampoline can run (R104); the fields are `f2` and `f3` of the descriptor. -/
inductive SideEffect where
  | latch (window : Byte) (state : Byte)
deriving DecidableEq, Repr

/-- The nine read kinds with their fields (R93). -/
inductive ReadKind where
  | openBus
  | external
  | store
  | prg (slot : Slot) (log2 : Byte)
  | chr (slot : Slot) (log2 : Byte)
  | chrA12 (slot : Slot) (log2 : Byte)
  | chrLatched (window : Bool) (slotA : Slot) (log2 : Byte) (slotB : Slot)
  | ntDyn
  | tramp (se : SideEffect)
deriving DecidableEq, Repr

/-- The twenty-one write kinds with their fields (R94). -/
inductive WriteKind where
  | ignore
  | external
  | store
  | chr (slot : Slot) (log2 : Byte)
  | chrA12 (slot : Slot) (log2 : Byte)
  | ntDyn
  | direct (toChr : Bool) (slot : Slot) (log2 : Byte) (mask : Byte)
  | shift
  | select
  | data
  | mirror (style : Byte)
  | m3Latch
  | m3Reload
  | m3Disable
  | m3Enable
  | vrcLatch
  | vrcLatchLo
  | vrcLatchHi
  | vrcCtrl
  | vrcAck
  | tramp (se : SideEffect)
deriving DecidableEq, Repr

/-- What a 32-bit handler descriptor names: a kind of either direction (R92). -/
inductive Kind where
  | read (k : ReadKind)
  | write (k : WriteKind)
deriving DecidableEq, Repr

/-- The context of a handler reference (R22): bus-owned state only, mapper state, or the trampoline
record with that index. -/
inductive Ctx where
  | none
  | mapper
  | tramp (k : Nat)
deriving DecidableEq, Repr

/-- A HandlerRef, the triple `(fn, ctx, param)` (R22), for kinds of one direction. -/
structure HandlerRef (κ : Type) where
  fn : κ
  ctx : Ctx
  param : Addr
deriving DecidableEq, Repr

/-- The read half of a dispatch-table entry (R21). -/
abbrev ReadRef := HandlerRef ReadKind

/-- The write half of a dispatch-table entry (R21). -/
abbrev WriteRef := HandlerRef WriteKind

end Sys2Proof
end

