-- ==== Sys2Proof/Config.lean ====
section
/-! DEFINITION. What an implementation fixes: the literals of spec/00_scope.md R7, the variant record type of
spec/10_state.md R41, and the free values of spec/00_scope.md R13 (opaque constants: nothing constrains them). -/

namespace Sys2Proof

namespace Config

/-- `CPU_AW` (R7): the CPU table has `2 ^ CPU_AW` entries. -/
def cpuAw : Nat := 16

/-- `PPU_AW` (R7): the PPU table has `2 ^ PPU_AW` entries. -/
def ppuAw : Nat := 14

/-- `N_SLOTS` (R7): at most the `2 ^ 5` that a descriptor's slot field can name (R92). -/
def nSlots : Nat := 32

/-- `PRESCALER_PERIOD` (R7). -/
def prescalerPeriod : BitVec 16 := 341

/-- `PRESCALER_STEP` (R7). -/
def prescalerStep : BitVec 16 := 3

/-- `A12_MIN_LOW` in CPU cycles (R7). -/
def a12MinLow : Nat := 3

/-- The log2 of the smallest and of the largest bank size, 1 KB and 32 KB (R92, R271). -/
def minLog2 : Nat := 10
def maxLog2 : Nat := 15

/-- `CHR_RAM_SIZE` (R7). -/
def chrRamSize : Nat := 8192

/-- The defaults of `VRC_BIT_M`, `VRC_BIT_A`, `VRC_BIT_E`, `VRC_BIT_S` (R7, R31, U9); an instance has its own, in
`Params`. -/
def vrcBitM : Fin 4 := 0
def vrcBitA : Fin 4 := 1
def vrcBitE : Fin 4 := 2
def vrcBitS : Fin 4 := 3

/-- The default of the value of M that means cycle mode (R31, 90_conflicts.md C4). -/
def vrcCycleMode : Bool := true

/-- `SHIFT_RESET_OR` (R7). -/
def shiftResetOr : BitVec 5 := 0x0C

/-- The number of addresses of the pattern-table range, which starts at PPU `$0000` and ends at `$1FFF` (R65): the CHR
windows lie in it (R271) and A12 is sampled in it (R193). -/
def patternCount : Nat := 0x2000

/-- The nametable mirror range `$2000`-`$3EFF` (R66): its first address, on which every translated address is built
(R160), and its number of addresses. -/
def nametableBase : Nat := 0x2000
def nametableCount : Nat := 0x1F00

/-- The cartridge ROM range CPU `$8000`-`$FFFF` (R66). -/
def prgRomBase : Nat := 0x8000
def prgRomCount : Nat := 0x8000

/-- The bits of a CPU address that choose its register address class (R101). -/
def classMask : Addr := 0xE001

/-- The cartridge RAM range `$6000`-`$7FFF` (R66), `PRG_RAM_SIZE` bytes where a variant has RAM (R7). -/
def prgRamBase : Nat := 0x6000
def prgRamCount : Nat := 0x2000

/-- The byte the n-th draw delivers: what an `EXTERNAL` read returns (R127, R13). Free. -/
opaque freeByte : Nat → Byte

/-- Power-on contents of a byte store (R45 "unspecified", R13). Free. -/
opaque powerOnStore : Space → Nat → Byte

/-- Power-on contents of CHR-RAM (R45 "unspecified", R13). Free. -/
opaque powerOnChrRam : Nat → Byte

/-- Power-on value of a last-bus-value register (R45 "unspecified", R13). Free. -/
opaque powerOnLast : Space → Byte

/-- `HAS_BATTERY`, OPEN (R7, U10): the reset instance's value. Free. -/
opaque hasBattery : Bool

/-- The bits of the n-th response that its command does not define (R90, R91). Free. -/
opaque freeResp : Nat → BitVec 16

/-- `N_VARIANTS`, OPEN (R7, U12): the reset instance's value. Free. -/
opaque nVariants : Nat

/-- `IRQ_SRC_MAPPER`, OPEN (R324, U11): which bit of the sink's mask is the mapper's. Free. -/
opaque irqSrcMapperBit : Nat

end Config

/-- Field `family` of a variant record (R41). -/
inductive FamilyName where
  | none
  | direct
  | serial
  | indexed
  | latch
deriving DecidableEq, Repr

/-- Field `irq` of a variant record (R41). -/
inductive IrqName where
  | none
  | vrc8
  | vrc16
  | mmc3
deriving DecidableEq, Repr

/-- Field `mirror` of a variant record (R41). -/
inductive MirrorStrategy where
  | static
  | controllable
deriving DecidableEq, Repr

/-- One CPU window of a record (R41); `init` is a signed 16-bit requested index. -/
structure PrgWindow where
  base : Nat
  size : Nat
  slot : Slot
  init : BitVec 16
deriving DecidableEq, Repr

/-- How a PPU window is served (R41): from one slot, or from the slot its latch selects. -/
inductive ChrSource where
  | plain (slot : Slot) (init : BitVec 16)
  | latched (window : Bool) (slotA slotB : Slot) (initA initB : BitVec 16)
deriving DecidableEq, Repr

/-- One PPU window of a record (R41). -/
structure ChrWindow where
  base : Nat
  size : Nat
  source : ChrSource
deriving DecidableEq, Repr

/-- One register-decode row of a record (R41). -/
structure CpuWrite where
  pattern : Addr
  mask : Addr
  kind : WriteKind
deriving DecidableEq, Repr

/-- One trampoline row of a record (R41). -/
structure Wrap where
  space : Space
  addrLo : Nat
  addrHi : Nat
  se : SideEffect
deriving DecidableEq, Repr

/-- A mapper variant (R41): a parameter fixed when the block is built. -/
structure Variant where
  name : String
  family : FamilyName
  irq : IrqName
  altIrq : Bool
  mirror : MirrorStrategy
  prgSanSize : Nat
  chrSanSize : Nat
  prgWindows : List PrgWindow
  chrWindows : List ChrWindow
  cpuWrites : List CpuWrite
  wraps : List Wrap
  prgRamSize : Nat
deriving DecidableEq, Repr

/-- `VRC_SCANLINE_CLOCK` (R7, U8). -/
inductive ScanlineClock where
  | none
  | everyTick
deriving DecidableEq, Repr

/-- The layout of the VRC control register (R7, R31, U9): the positions `VRC_BIT_M`, `VRC_BIT_A`, `VRC_BIT_E` and
`VRC_BIT_S` among its four stored bits, and the value of M that means cycle mode (90_conflicts.md C4). Distinct
positions are not demanded (notes/assumptions/28.md). -/
structure VrcBits where
  m : Fin 4
  a : Fin 4
  e : Fin 4
  s : Fin 4
  cycleMode : Bool
deriving DecidableEq, Repr

/-- The default layout (R7, R31). -/
def Config.vrcBits : VrcBits :=
  ⟨Config.vrcBitM, Config.vrcBitA, Config.vrcBitE, Config.vrcBitS, Config.vrcCycleMode⟩

/-- The parameters an instance is built with (R7): no step changes them. `nVariants` is the size of the catalog the
record is one of; no rule of the block reads it. -/
structure Params where
  variant : Variant
  scanlineClock : ScanlineClock
  hasBattery : Bool
  vrcBits : VrcBits
  nVariants : Nat
deriving DecidableEq, Repr

end Sys2Proof
end

