-- ==== Sys2Proof/Syntax.lean ====
section
/-! DEFINITION. The abstract syntax: `Instr`, one constructor per mnemonic of spec/opcode_table.json.
The nineteen host commands carry the fields of the command word (spec/30_encoding.md R90, R91). A handler
kind runs only when an `RD` or `WR` dispatches to it (spec/00_scope.md R5), so its constructor carries the
operands of that bus transaction (space, `param`, byte written; a trampoline also its record index) beside
the fields of its descriptor (R92 to R94). `SE_LATCH` carries its two fields (R104). -/

namespace Sys2Proof

/-- The operands a read kind is invoked with: the bus and the entry's `param` (R22, R124). -/
structure ReadCall where
  sp : Space
  param : Addr
deriving DecidableEq, Repr

/-- The operands a write kind is invoked with: the bus, the entry's `param`, the byte (R22, R125). -/
structure WriteCall where
  sp : Space
  param : Addr
  v : Byte
deriving DecidableEq, Repr

inductive Instr where
  -- host commands (R91)
  | init
  | applymap
  | tick
  | reset
  | savebatt
  | extaudio
  | postaudio
  | teardown
  | rd (sp : Space) (a : Addr)
  | wr (sp : Space) (a : Addr) (v : Byte)
  | setrd (sp : Space) (a : Addr) (hd : Kind) (param : Addr)
  | setwr (sp : Space) (a : Addr) (hd : Kind) (param : Addr)
  | wraprd (sp : Space) (a : Addr) (hd : Kind) (param : Addr)
  | wrapwr (sp : Space) (a : Addr) (hd : Kind) (param : Addr)
  | normbank (idx : BitVec 16) (memsize : BitVec 32) (banksize : BitVec 16)
  | sanitize
  | mirroraddr (a : Addr) (mode : MirrorMode)
  | applymirror (mode : MirrorMode)
  | applyctlmirror
  -- read kinds (R93)
  | rdOpen (c : ReadCall)
  | rdExternal (c : ReadCall)
  | rdStore (c : ReadCall)
  | rdPrg (c : ReadCall) (slot : Slot) (log2 : Byte)
  | rdChr (c : ReadCall) (slot : Slot) (log2 : Byte)
  | rdChrA12 (c : ReadCall) (slot : Slot) (log2 : Byte)
  | rdChrLatched (c : ReadCall) (window : Bool) (slotA : Slot) (log2 : Byte) (slotB : Slot)
  | rdNtDyn (c : ReadCall)
  | rdTramp (c : ReadCall) (k : Nat) (se : SideEffect)
  -- write kinds (R94)
  | wrIgnore (c : WriteCall)
  | wrExternal (c : WriteCall)
  | wrStore (c : WriteCall)
  | wrChr (c : WriteCall) (slot : Slot) (log2 : Byte)
  | wrChrA12 (c : WriteCall) (slot : Slot) (log2 : Byte)
  | wrNtDyn (c : WriteCall)
  | wrDirect (c : WriteCall) (toChr : Bool) (slot : Slot) (log2 : Byte) (mask : Byte)
  | wrShift (c : WriteCall)
  | wrSelect (c : WriteCall)
  | wrData (c : WriteCall)
  | wrMirror (c : WriteCall) (style : Byte)
  | wrM3Latch (c : WriteCall)
  | wrM3Reload (c : WriteCall)
  | wrM3Disable (c : WriteCall)
  | wrM3Enable (c : WriteCall)
  | wrVrcLatch (c : WriteCall)
  | wrVrcLatchLo (c : WriteCall)
  | wrVrcLatchHi (c : WriteCall)
  | wrVrcCtrl (c : WriteCall)
  | wrVrcAck (c : WriteCall)
  | wrTramp (c : WriteCall) (k : Nat) (se : SideEffect)
  -- the side-effect kind (R104)
  | seLatch (window : Byte) (state : Byte)
deriving DecidableEq, Repr

end Sys2Proof
end

