-- ==== Sys2Proof/WellFormed.lean ====
section
/-! DEFINITION. Which instructions are well formed: the checks of spec/30_encoding.md R105 that remain once a
word's fields have been read (a direction, a kind that a command may not carry, a size, a side effect's
fields, a mirror style). The other rows of R105 are refused by the decoder. -/

namespace Sys2Proof

/-- A size field is the log2 of 1 KB to 32 KB (R92). -/
def log2Ok (n : Byte) : Bool := Config.minLog2 ≤ n.toNat && n.toNat ≤ Config.maxLog2

/-- `SE_LATCH`: window 0 or 1, state code 1 or 2 (R104). -/
def SideEffect.wellFormed : SideEffect → Bool
  | .latch w st => w.toNat ≤ 1 && (st == 1 || st == 2)

def ReadKind.wellFormed : ReadKind → Bool
  | .prg _ n => log2Ok n
  | .chr _ n => log2Ok n
  | .chrA12 _ n => log2Ok n
  | .chrLatched _ _ n _ => log2Ok n
  | .tramp se => se.wellFormed
  | .openBus => true
  | .external => true
  | .store => true
  | .ntDyn => true

def WriteKind.wellFormed : WriteKind → Bool
  | .chr _ n => log2Ok n
  | .chrA12 _ n => log2Ok n
  | .direct _ _ n _ => log2Ok n
  | .mirror style => style == 0
  | .tramp se => se.wellFormed
  | .ignore => true
  | .external => true
  | .store => true
  | .ntDyn => true
  | .shift => true
  | .select => true
  | .data => true
  | .m3Latch => true
  | .m3Reload => true
  | .m3Disable => true
  | .m3Enable => true
  | .vrcLatch => true
  | .vrcLatchLo => true
  | .vrcLatchHi => true
  | .vrcCtrl => true
  | .vrcAck => true

def ReadKind.isTramp : ReadKind → Bool
  | .tramp _ => true
  | _ => false

def WriteKind.isTramp : WriteKind → Bool
  | .tramp _ => true
  | _ => false

/-- Legal in `SETRD`: a read kind other than `RD_TRAMP` (R105). -/
def Kind.okSetrd : Kind → Bool
  | .read k => k.wellFormed && !k.isTramp
  | .write _ => false

/-- Legal in `SETWR`: a write kind other than `WR_TRAMP` (R105). -/
def Kind.okSetwr : Kind → Bool
  | .read _ => false
  | .write k => k.wellFormed && !k.isTramp

/-- Legal in `WRAPRD`: `RD_TRAMP` with a valid side effect (R105). -/
def Kind.okWraprd : Kind → Bool
  | .read k => k.wellFormed && k.isTramp
  | .write _ => false

/-- Legal in `WRAPWR`: `WR_TRAMP` with a valid side effect (R105). -/
def Kind.okWrapwr : Kind → Bool
  | .read _ => false
  | .write k => k.wellFormed && k.isTramp

def Instr.wellFormed : Instr → Bool
  | .setrd _ _ hd _ => hd.okSetrd
  | .setwr _ _ hd _ => hd.okSetwr
  | .wraprd _ _ hd _ => hd.okWraprd
  | .wrapwr _ _ hd _ => hd.okWrapwr
  | .rdPrg _ _ n => log2Ok n
  | .rdChr _ _ n => log2Ok n
  | .rdChrA12 _ _ n => log2Ok n
  | .rdChrLatched _ _ _ n _ => log2Ok n
  | .rdTramp _ _ se => se.wellFormed
  | .wrChr _ _ n => log2Ok n
  | .wrChrA12 _ _ n => log2Ok n
  | .wrDirect _ _ _ n _ => log2Ok n
  | .wrMirror _ style => style == 0
  | .wrTramp _ _ se => se.wellFormed
  | .seLatch w st => SideEffect.wellFormed (.latch w st)
  | .init => true
  | .applymap => true
  | .tick => true
  | .reset => true
  | .savebatt => true
  | .extaudio => true
  | .postaudio => true
  | .teardown => true
  | .rd _ _ => true
  | .wr _ _ _ => true
  | .normbank _ _ _ => true
  | .sanitize => true
  | .mirroraddr _ _ => true
  | .applymirror _ => true
  | .applyctlmirror => true
  | .rdOpen _ => true
  | .rdExternal _ => true
  | .rdStore _ => true
  | .rdNtDyn _ => true
  | .wrIgnore _ => true
  | .wrExternal _ => true
  | .wrStore _ => true
  | .wrNtDyn _ => true
  | .wrShift _ => true
  | .wrSelect _ => true
  | .wrData _ => true
  | .wrM3Latch _ => true
  | .wrM3Reload _ => true
  | .wrM3Disable _ => true
  | .wrM3Enable _ => true
  | .wrVrcLatch _ => true
  | .wrVrcLatchLo _ => true
  | .wrVrcLatchHi _ => true
  | .wrVrcCtrl _ => true
  | .wrVrcAck _ => true

end Sys2Proof
end

