-- ==== Sys2Proof/Decode.lean ====
section
/-! DEFINITION. Decoding and encoding, from the tables of spec/30_encoding.md: the 88-bit command word (R90,
R91), the handler descriptor (R92 to R94), the side-effect descriptor (R104), the register address classes
(R101) and the mirror mode codes (R95). Decoding is total and rejects by name (R105); the checks that need
no more than the fields are `Instr.wellFormed`. -/

namespace Sys2Proof

/-- Why a word is no instruction (R105); each is a malformed word, refused (safe). -/
inductive Invalid where
  /-- `op` is not in R91. -/
  | unknownOp
  /-- `sp` is 2 or more. -/
  | badSpace
  /-- `hd.kind` is not in R93 or R94. -/
  | unknownKind
  /-- A trampoline descriptor's side-effect kind is not in R104. -/
  | badSideEffect
  /-- A mirror mode field is 5 or more. -/
  | badMirrorMode
  /-- A CPU address of no register address class (R101). -/
  | noAddressClass
deriving DecidableEq, Repr

/-! ### Field codes -/

/-- Mirror mode codes 0 to 4 in the order of the enum (R95). -/
def mirrorCode : MirrorMode → BitVec 3
  | .horizontal => 0
  | .vertical => 1
  | .oneScreenA => 2
  | .oneScreenB => 3
  | .fourScreen => 4

/-- The mode of a code; 5, 6 and 7 are reserved (R95). -/
def mirrorOfCode (code : BitVec 3) : Option MirrorMode :=
  match code.toNat with
  | 0 => some .horizontal
  | 1 => some .vertical
  | 2 => some .oneScreenA
  | 3 => some .oneScreenB
  | 4 => some .fourScreen
  | _ => none

/-- The `c` field of a command as a mirror mode: `c[7:3]` must be 0 (R95). -/
def mirrorOfByte (c : Byte) : Except Invalid MirrorMode :=
  if c.extractLsb' 3 5 = 0#5 then
    match mirrorOfCode (c.extractLsb' 0 3) with
    | some m => .ok m
    | none => .error .badMirrorMode
  else .error .badMirrorMode

def spaceCode : Space → Byte
  | .cpu => 0
  | .ppu => 1

/-- The `sp` field of a command (R90). -/
def spaceOfByte (b : Byte) : Except Invalid Space :=
  match b.toNat with
  | 0 => .ok .cpu
  | 1 => .ok .ppu
  | _ => .error .badSpace

/-- The slot number of a field, its bits 4:0 (R92). -/
def slotOfByte (f : Byte) : Slot := f.extractLsb' 0 5

/-- A field holding a slot number alone. -/
def byteOfSlot (s : Slot) : Byte := 0#3 ++ s

/-- A field holding a one-bit selector in bit 7 and a slot number (R92). -/
def byteOfSelSlot (sel : Bool) (s : Slot) : Byte := BitVec.ofBool sel ++ (0#2 ++ s)

/-! ### Handler descriptors -/

/-- `hd[31:0]` from the kind code and the three fields (R92). -/
def packDescriptor (kind f1 f2 f3 : Byte) : BitVec 32 := kind ++ (f1 ++ (f2 ++ f3))

/-- The side effect of a trampoline descriptor (R104). -/
def sideEffectOf (f1 f2 f3 : Byte) : Except Invalid SideEffect :=
  if f1 = 0#8 then .ok (.latch f2 f3) else .error .badSideEffect

/-- The kind a descriptor's four bytes name (R93, R94). -/
def kindOfFields (kind f1 f2 f3 : Byte) : Except Invalid Kind :=
  match kind.toNat with
  | 0x00 => .ok (.read .openBus)
  | 0x01 => .ok (.read .external)
  | 0x02 => .ok (.read .store)
  | 0x03 => .ok (.read (.prg (slotOfByte f1) f2))
  | 0x04 => .ok (.read (.chr (slotOfByte f1) f2))
  | 0x05 => .ok (.read (.chrA12 (slotOfByte f1) f2))
  | 0x06 => .ok (.read (.chrLatched (f1.getLsbD 7) (slotOfByte f1) f2 (slotOfByte f3)))
  | 0x07 => .ok (.read .ntDyn)
  | 0x08 => (sideEffectOf f1 f2 f3).map (fun se => .read (.tramp se))
  | 0x80 => .ok (.write .ignore)
  | 0x81 => .ok (.write .external)
  | 0x82 => .ok (.write .store)
  | 0x83 => .ok (.write (.chr (slotOfByte f1) f2))
  | 0x84 => .ok (.write (.chrA12 (slotOfByte f1) f2))
  | 0x85 => .ok (.write .ntDyn)
  | 0x86 => .ok (.write (.direct (f1.getLsbD 7) (slotOfByte f1) f2 f3))
  | 0x87 => .ok (.write .shift)
  | 0x88 => .ok (.write .select)
  | 0x89 => .ok (.write .data)
  | 0x8A => .ok (.write (.mirror f1))
  | 0x8B => .ok (.write .m3Latch)
  | 0x8C => .ok (.write .m3Reload)
  | 0x8D => .ok (.write .m3Disable)
  | 0x8E => .ok (.write .m3Enable)
  | 0x90 => .ok (.write .vrcLatch)
  | 0x91 => .ok (.write .vrcLatchLo)
  | 0x92 => .ok (.write .vrcLatchHi)
  | 0x93 => .ok (.write .vrcCtrl)
  | 0x94 => .ok (.write .vrcAck)
  | 0x95 => (sideEffectOf f1 f2 f3).map (fun se => .write (.tramp se))
  | _ => .error .unknownKind

/-- The kind a 32-bit descriptor names (R92). -/
def kindOfDescriptor (hd : BitVec 32) : Except Invalid Kind :=
  kindOfFields (hd.extractLsb' 24 8) (hd.extractLsb' 16 8) (hd.extractLsb' 8 8) (hd.extractLsb' 0 8)

/-- A trampoline's descriptor; the side-effect kind of `SE_LATCH` is 0 (R104). -/
def packTramp (kind : Byte) : SideEffect → BitVec 32
  | .latch w st => packDescriptor kind 0x00 w st

/-- The descriptor of a read kind; fields a kind does not use are zero (R93). -/
def encodeReadKind : ReadKind → BitVec 32
  | .openBus => packDescriptor 0x00 0 0 0
  | .external => packDescriptor 0x01 0 0 0
  | .store => packDescriptor 0x02 0 0 0
  | .prg slot n => packDescriptor 0x03 (byteOfSlot slot) n 0
  | .chr slot n => packDescriptor 0x04 (byteOfSlot slot) n 0
  | .chrA12 slot n => packDescriptor 0x05 (byteOfSlot slot) n 0
  | .chrLatched w slotA n slotB => packDescriptor 0x06 (byteOfSelSlot w slotA) n (byteOfSlot slotB)
  | .ntDyn => packDescriptor 0x07 0 0 0
  | .tramp se => packTramp 0x08 se

/-- The descriptor of a write kind; fields a kind does not use are zero (R94). -/
def encodeWriteKind : WriteKind → BitVec 32
  | .ignore => packDescriptor 0x80 0 0 0
  | .external => packDescriptor 0x81 0 0 0
  | .store => packDescriptor 0x82 0 0 0
  | .chr slot n => packDescriptor 0x83 (byteOfSlot slot) n 0
  | .chrA12 slot n => packDescriptor 0x84 (byteOfSlot slot) n 0
  | .ntDyn => packDescriptor 0x85 0 0 0
  | .direct toChr slot n mask => packDescriptor 0x86 (byteOfSelSlot toChr slot) n mask
  | .shift => packDescriptor 0x87 0 0 0
  | .select => packDescriptor 0x88 0 0 0
  | .data => packDescriptor 0x89 0 0 0
  | .mirror style => packDescriptor 0x8A style 0 0
  | .m3Latch => packDescriptor 0x8B 0 0 0
  | .m3Reload => packDescriptor 0x8C 0 0 0
  | .m3Disable => packDescriptor 0x8D 0 0 0
  | .m3Enable => packDescriptor 0x8E 0 0 0
  | .vrcLatch => packDescriptor 0x90 0 0 0
  | .vrcLatchLo => packDescriptor 0x91 0 0 0
  | .vrcLatchHi => packDescriptor 0x92 0 0 0
  | .vrcCtrl => packDescriptor 0x93 0 0 0
  | .vrcAck => packDescriptor 0x94 0 0 0
  | .tramp se => packTramp 0x95 se

def encodeKind : Kind → BitVec 32
  | .read k => encodeReadKind k
  | .write k => encodeWriteKind k

/-! ### Command words -/

/-- The six fields of a command word (R90). -/
structure CommandFields where
  op : Byte
  sp : Byte
  a : Addr
  b : BitVec 16
  c : Byte
  hd : BitVec 32
deriving DecidableEq, Repr

/-- `CW[87:0]` from its fields (R90). -/
def packCommand (f : CommandFields) : BitVec 88 := f.op ++ (f.sp ++ (f.a ++ (f.b ++ (f.c ++ f.hd))))

/-- The fields of `CW[87:0]` (R90). -/
def fieldsOf (cw : BitVec 88) : CommandFields where
  op := cw.extractLsb' 80 8
  sp := cw.extractLsb' 72 8
  a := cw.extractLsb' 56 16
  b := cw.extractLsb' 40 16
  c := cw.extractLsb' 32 8
  hd := cw.extractLsb' 0 32

/-- A command whose operands are a space, an address, a descriptor and a `param` (R91). -/
def installOf (mk : Space → Addr → Kind → Addr → Instr) (f : CommandFields) : Except Invalid Instr := do
  let sp ← spaceOfByte f.sp
  let hd ← kindOfDescriptor f.hd
  return mk sp f.a hd f.b

/-- The command the fields of a word name (R91); fields an operation does not use are ignored (R90). -/
def commandOfFields (f : CommandFields) : Except Invalid Instr :=
  match f.op.toNat with
  | 0x01 => .ok .init
  | 0x02 => .ok .applymap
  | 0x03 => .ok .tick
  | 0x04 => .ok .reset
  | 0x05 => .ok .savebatt
  | 0x06 => .ok .extaudio
  | 0x07 => .ok .postaudio
  | 0x08 => .ok .teardown
  | 0x10 => (spaceOfByte f.sp).map (fun sp => .rd sp f.a)
  | 0x11 => (spaceOfByte f.sp).map (fun sp => .wr sp f.a f.c)
  | 0x12 => installOf .setrd f
  | 0x13 => installOf .setwr f
  | 0x14 => installOf .wraprd f
  | 0x15 => installOf .wrapwr f
  | 0x20 => .ok (.normbank f.b f.hd f.a)
  | 0x21 => .ok .sanitize
  | 0x28 => (mirrorOfByte f.c).map (fun m => .mirroraddr f.a m)
  | 0x29 => (mirrorOfByte f.c).map (fun m => .applymirror m)
  | 0x2A => .ok .applyctlmirror
  | _ => .error .unknownOp

/-- Decode a command word (R90, R91, R105). -/
def decodeCommand (cw : BitVec 88) : Except Invalid Instr := commandOfFields (fieldsOf cw)

/-! ### Handler invocations, side effects, address classes -/

/-- The instruction that invokes a kind with the operands of a bus transaction (R124, R125); `k` is the
trampoline record a trampoline kind is invoked with and no other kind reads it. -/
def readInstr (c : ReadCall) (k : Nat) : ReadKind → Instr
  | .openBus => .rdOpen c
  | .external => .rdExternal c
  | .store => .rdStore c
  | .prg slot n => .rdPrg c slot n
  | .chr slot n => .rdChr c slot n
  | .chrA12 slot n => .rdChrA12 c slot n
  | .chrLatched w slotA n slotB => .rdChrLatched c w slotA n slotB
  | .ntDyn => .rdNtDyn c
  | .tramp se => .rdTramp c k se

def writeInstr (c : WriteCall) (k : Nat) : WriteKind → Instr
  | .ignore => .wrIgnore c
  | .external => .wrExternal c
  | .store => .wrStore c
  | .chr slot n => .wrChr c slot n
  | .chrA12 slot n => .wrChrA12 c slot n
  | .ntDyn => .wrNtDyn c
  | .direct toChr slot n mask => .wrDirect c toChr slot n mask
  | .shift => .wrShift c
  | .select => .wrSelect c
  | .data => .wrData c
  | .mirror style => .wrMirror c style
  | .m3Latch => .wrM3Latch c
  | .m3Reload => .wrM3Reload c
  | .m3Disable => .wrM3Disable c
  | .m3Enable => .wrM3Enable c
  | .vrcLatch => .wrVrcLatch c
  | .vrcLatchLo => .wrVrcLatchLo c
  | .vrcLatchHi => .wrVrcLatchHi c
  | .vrcCtrl => .wrVrcCtrl c
  | .vrcAck => .wrVrcAck c
  | .tramp se => .wrTramp c k se

/-- The read kind, its operands and its record index, of an instruction that is one. -/
def readPartsOf : Instr → Option (ReadCall × Nat × ReadKind)
  | .rdOpen c => some (c, 0, .openBus)
  | .rdExternal c => some (c, 0, .external)
  | .rdStore c => some (c, 0, .store)
  | .rdPrg c slot n => some (c, 0, .prg slot n)
  | .rdChr c slot n => some (c, 0, .chr slot n)
  | .rdChrA12 c slot n => some (c, 0, .chrA12 slot n)
  | .rdChrLatched c w slotA n slotB => some (c, 0, .chrLatched w slotA n slotB)
  | .rdNtDyn c => some (c, 0, .ntDyn)
  | .rdTramp c k se => some (c, k, .tramp se)
  | _ => none

/-- The write kind, its operands and its record index, of an instruction that is one. -/
def writePartsOf : Instr → Option (WriteCall × Nat × WriteKind)
  | .wrIgnore c => some (c, 0, .ignore)
  | .wrExternal c => some (c, 0, .external)
  | .wrStore c => some (c, 0, .store)
  | .wrChr c slot n => some (c, 0, .chr slot n)
  | .wrChrA12 c slot n => some (c, 0, .chrA12 slot n)
  | .wrNtDyn c => some (c, 0, .ntDyn)
  | .wrDirect c toChr slot n mask => some (c, 0, .direct toChr slot n mask)
  | .wrShift c => some (c, 0, .shift)
  | .wrSelect c => some (c, 0, .select)
  | .wrData c => some (c, 0, .data)
  | .wrMirror c style => some (c, 0, .mirror style)
  | .wrM3Latch c => some (c, 0, .m3Latch)
  | .wrM3Reload c => some (c, 0, .m3Reload)
  | .wrM3Disable c => some (c, 0, .m3Disable)
  | .wrM3Enable c => some (c, 0, .m3Enable)
  | .wrVrcLatch c => some (c, 0, .vrcLatch)
  | .wrVrcLatchLo c => some (c, 0, .vrcLatchLo)
  | .wrVrcLatchHi c => some (c, 0, .vrcLatchHi)
  | .wrVrcCtrl c => some (c, 0, .vrcCtrl)
  | .wrVrcAck c => some (c, 0, .vrcAck)
  | .wrTramp c k se => some (c, k, .tramp se)
  | _ => none

/-- DESIGN CHOICE (notes/assumptions/4.md): an invocation word is the 32-bit descriptor in bits 31:0 with the
operands of the transaction above it: `param` in 47:32, the byte written in 55:48, the space in 63:56 and the
record index from bit 64 up. -/
def packCall (hd : BitVec 32) (sp : Space) (param : Addr) (v : Byte) (k : Nat) : Nat :=
  (spaceCode sp ++ (v ++ (param ++ hd))).toNat + k * 2 ^ 64

/-- Decode an invocation word (R92 to R94; layout notes/assumptions/4.md). -/
def decodeCall (w : Nat) : Except Invalid Instr := do
  let low := BitVec.ofNat 64 w
  let sp ← spaceOfByte (low.extractLsb' 56 8)
  let kind ← kindOfDescriptor (low.extractLsb' 0 32)
  let param : Addr := low.extractLsb' 32 16
  match kind with
  | .read k => return readInstr ⟨sp, param⟩ (w / 2 ^ 64) k
  | .write k => return writeInstr ⟨sp, param, low.extractLsb' 48 8⟩ (w / 2 ^ 64) k

/-- Decode the 24 side-effect bits of a trampoline descriptor: kind, `f2`, `f3` (R104). -/
def decodeSideEffect (w : BitVec 24) : Except Invalid Instr :=
  (sideEffectOf (w.extractLsb' 16 8) (w.extractLsb' 8 8) (w.extractLsb' 0 8)).map
    (fun | .latch win st => .seLatch win st)

/-- The register address classes (R101), each with the write kind the indexed reference variant installs (R277). -/
def classTable : List (Addr × WriteKind) :=
  [(0x8000, .select), (0x8001, .data), (0xA000, .mirror 0), (0xA001, .ignore), (0xC000, .m3Latch),
    (0xC001, .m3Reload), (0xE000, .m3Disable), (0xE001, .m3Enable)]

/-- The write kind of the register address class of an address (R101). -/
def addressClass (a : Addr) : Option WriteKind :=
  (classTable.find? (fun e => a &&& Config.classMask == e.1)).map Prod.snd

/-- A CPU register address read as the write kind its class names, with `param` = the address (R101). -/
def decodeAddress (a : Addr) : Except Invalid Instr :=
  match addressClass a with
  | some k => .ok (writeInstr ⟨.cpu, a, 0⟩ 0 k)
  | none => .error .noAddressClass

/-! ### The encoder -/

/-- Which of the three formats of an instruction a word is in (R111). -/
inductive Format where
  | command
  | call
  | sideEffect
deriving DecidableEq, Repr

/-- The words of an instruction. -/
structure Encoded where
  format : Format
  bits : Nat
deriving DecidableEq, Repr

def encodeFields (f : CommandFields) : Encoded := ⟨.command, (packCommand f).toNat⟩

def encodeRead (c : ReadCall) (k : Nat) (fn : ReadKind) : Encoded :=
  ⟨.call, packCall (encodeReadKind fn) c.sp c.param 0#8 k⟩

def encodeWrite (c : WriteCall) (k : Nat) (fn : WriteKind) : Encoded :=
  ⟨.call, packCall (encodeWriteKind fn) c.sp c.param c.v k⟩

/-- The word of an instruction; unused fields are zeros (R110). -/
def encode : Instr → Encoded
  | .init => encodeFields ⟨0x01, 0, 0, 0, 0, 0⟩
  | .applymap => encodeFields ⟨0x02, 0, 0, 0, 0, 0⟩
  | .tick => encodeFields ⟨0x03, 0, 0, 0, 0, 0⟩
  | .reset => encodeFields ⟨0x04, 0, 0, 0, 0, 0⟩
  | .savebatt => encodeFields ⟨0x05, 0, 0, 0, 0, 0⟩
  | .extaudio => encodeFields ⟨0x06, 0, 0, 0, 0, 0⟩
  | .postaudio => encodeFields ⟨0x07, 0, 0, 0, 0, 0⟩
  | .teardown => encodeFields ⟨0x08, 0, 0, 0, 0, 0⟩
  | .rd sp a => encodeFields ⟨0x10, spaceCode sp, a, 0, 0, 0⟩
  | .wr sp a v => encodeFields ⟨0x11, spaceCode sp, a, 0, v, 0⟩
  | .setrd sp a hd p => encodeFields ⟨0x12, spaceCode sp, a, p, 0, encodeKind hd⟩
  | .setwr sp a hd p => encodeFields ⟨0x13, spaceCode sp, a, p, 0, encodeKind hd⟩
  | .wraprd sp a hd p => encodeFields ⟨0x14, spaceCode sp, a, p, 0, encodeKind hd⟩
  | .wrapwr sp a hd p => encodeFields ⟨0x15, spaceCode sp, a, p, 0, encodeKind hd⟩
  | .normbank idx memsize banksize => encodeFields ⟨0x20, 0, banksize, idx, 0, memsize⟩
  | .sanitize => encodeFields ⟨0x21, 0, 0, 0, 0, 0⟩
  | .mirroraddr a m => encodeFields ⟨0x28, 0, a, 0, 0#5 ++ mirrorCode m, 0⟩
  | .applymirror m => encodeFields ⟨0x29, 0, 0, 0, 0#5 ++ mirrorCode m, 0⟩
  | .applyctlmirror => encodeFields ⟨0x2A, 0, 0, 0, 0, 0⟩
  | .rdOpen c => encodeRead c 0 .openBus
  | .rdExternal c => encodeRead c 0 .external
  | .rdStore c => encodeRead c 0 .store
  | .rdPrg c slot n => encodeRead c 0 (.prg slot n)
  | .rdChr c slot n => encodeRead c 0 (.chr slot n)
  | .rdChrA12 c slot n => encodeRead c 0 (.chrA12 slot n)
  | .rdChrLatched c w slotA n slotB => encodeRead c 0 (.chrLatched w slotA n slotB)
  | .rdNtDyn c => encodeRead c 0 .ntDyn
  | .rdTramp c k se => encodeRead c k (.tramp se)
  | .wrIgnore c => encodeWrite c 0 .ignore
  | .wrExternal c => encodeWrite c 0 .external
  | .wrStore c => encodeWrite c 0 .store
  | .wrChr c slot n => encodeWrite c 0 (.chr slot n)
  | .wrChrA12 c slot n => encodeWrite c 0 (.chrA12 slot n)
  | .wrNtDyn c => encodeWrite c 0 .ntDyn
  | .wrDirect c toChr slot n mask => encodeWrite c 0 (.direct toChr slot n mask)
  | .wrShift c => encodeWrite c 0 .shift
  | .wrSelect c => encodeWrite c 0 .select
  | .wrData c => encodeWrite c 0 .data
  | .wrMirror c style => encodeWrite c 0 (.mirror style)
  | .wrM3Latch c => encodeWrite c 0 .m3Latch
  | .wrM3Reload c => encodeWrite c 0 .m3Reload
  | .wrM3Disable c => encodeWrite c 0 .m3Disable
  | .wrM3Enable c => encodeWrite c 0 .m3Enable
  | .wrVrcLatch c => encodeWrite c 0 .vrcLatch
  | .wrVrcLatchLo c => encodeWrite c 0 .vrcLatchLo
  | .wrVrcLatchHi c => encodeWrite c 0 .vrcLatchHi
  | .wrVrcCtrl c => encodeWrite c 0 .vrcCtrl
  | .wrVrcAck c => encodeWrite c 0 .vrcAck
  | .wrTramp c k se => encodeWrite c k (.tramp se)
  | .seLatch w st => ⟨.sideEffect, (0#8 ++ (w ++ st)).toNat⟩

/-- Decode a word of any format. -/
def decode (e : Encoded) : Except Invalid Instr :=
  match e.format with
  | .command => decodeCommand (BitVec.ofNat 88 e.bits)
  | .call => decodeCall e.bits
  | .sideEffect => decodeSideEffect (BitVec.ofNat 24 e.bits)

/-- The instruction the decoder reads from a word numbered as spec/opcode_table.json numbers it; the format is
the row's width: an address class (16 bits), a side effect (24), a descriptor (32), a command word (R111). -/
def decodeTableWord (nbits w : Nat) : Option Instr :=
  if nbits ≤ 16 then (decodeAddress (BitVec.ofNat 16 w)).toOption
  else if nbits ≤ 24 then (decode ⟨.sideEffect, w⟩).toOption
  else if nbits ≤ 64 then (decode ⟨.call, w⟩).toOption
  else (decode ⟨.command, w⟩).toOption

end Sys2Proof
end

