-- ==== Sys2Proof/Machine/Regs.lean ====
section
/-! DEFINITION. The register groups of spec/10_state.md (slots R26, IRQ counters R29 to R32, family state R35 to
R38, trampoline records R34, lifecycle R40), the outputs of a command, and the reset column of R45. -/

namespace Sys2Proof.Machine

/-- One array of the bank register file: `N_SLOTS` slots of 8 bits (R26). -/
abbrev SlotFile := Vector Byte Config.nSlots

/-- IRQ counter variant (a) (R29). -/
structure Vrc8 where
  counter : BitVec 8
  latch : BitVec 8
  ctrl : BitVec 4
  /-- Signed 16 bits. -/
  prescaler : BitVec 16
deriving DecidableEq, Repr

/-- IRQ counter variant (b) (R30). -/
structure Vrc16 where
  counter : BitVec 16
  latch : BitVec 16
  ctrl : BitVec 4
  /-- Signed 16 bits. -/
  prescaler : BitVec 16
deriving DecidableEq, Repr

/-- IRQ counter variant (c) with its A12 filter (R32). -/
structure Mmc3 where
  counter : BitVec 8
  latch : BitVec 8
  reloadPending : Bool
  enable : Bool
  a12LowSince : Nat
  a12High : Bool
  a12Init : Bool
deriving DecidableEq, Repr

/-- The IRQ counter state: exactly one of three variants, or none (R20). -/
inductive IrqState where
  | none
  | vrc8 (r : Vrc8)
  | vrc16 (r : Vrc16)
  | mmc3 (r : Mmc3)
deriving DecidableEq, Repr

/-- Serial family state (R35). -/
structure Serial where
  shVal : BitVec 5
  shCnt : BitVec 3
  ctl : BitVec 5
  chr0 : BitVec 5
  chr1 : BitVec 5
  prgreg : BitVec 5
deriving DecidableEq, Repr

/-- Indexed family state (R37). -/
structure Indexed where
  sel : Byte
  r : Vector Byte 8
deriving DecidableEq, Repr

/-- Latch family state: `chr_latch[0]` and `chr_latch[1]` (R38). -/
structure Latches where
  latch0 : Latch
  latch1 : Latch
deriving DecidableEq, Repr

/-- The family state: exactly one of the four families, or none (R20); `direct` has no register (R38). -/
inductive FamilyState where
  | none
  | direct
  | serial (r : Serial)
  | indexed (r : Indexed)
  | latch (r : Latches)
deriving DecidableEq, Repr

/-- The handler reference a record holds, of either half of an entry (R34). -/
inductive PrevRef where
  | rd (h : ReadRef)
  | wr (h : WriteRef)
deriving DecidableEq, Repr

/-- A TrampolineRecord (R34). -/
structure TrampRecord where
  prev : PrevRef
  owner : Ctx
deriving DecidableEq, Repr

/-- The lifecycle phase (R40). -/
inductive Phase where
  | empty
  | loaded
  | mapped
  | dead
deriving DecidableEq, Repr

/-- What a command defines of its response: the bits of the 16-bit `resp` that R91 names (`resp[0]`, `resp[7:0]`,
`resp[15:0]`), or the wired sample. -/
inductive Answer where
  | flag (b : Bool)
  | byte (b : Byte)
  | word (w : BitVec 16)
  | sample (s : Sample)
deriving DecidableEq, Repr

/-- The response of a command: the 16-bit value `resp` (R90), or the wired sample of an audio hook (R91). -/
inductive Response where
  | value (w : BitVec 16)
  | sample (s : Sample)
deriving DecidableEq, Repr

/-- The response with the given answer; the bits of `resp` the command does not define are those of `free`
(R90, R91; notes/assumptions/9.md). -/
def responseOf (free : BitVec 16) : Answer → Response
  | .flag b => .value (free.extractLsb' 1 15 ++ BitVec.ofBool b)
  | .byte v => .value (free.extractLsb' 8 8 ++ v)
  | .word w => .value w
  | .sample x => .sample x

/-- A call on the Interruptable sink (R325, R326). -/
inductive SinkCall where
  | irq
  | clearIrq
deriving DecidableEq, Repr

/-- Every call passes the mapper source tag and no other bit (R324). -/
def SinkCall.sourceBitmask (_ : SinkCall) : Nat := 2 ^ Config.irqSrcMapperBit

/-- The wired inputs as the environment presents them with a command (R46). -/
structure Wires where
  rom : Rom
  now : Nat
  sample : Sample
  hz : Nat
deriving DecidableEq, Repr

/-- One command issued on the command port with its wired inputs (R9). -/
structure Issue where
  word : BitVec 88
  wires : Wires
deriving DecidableEq, Repr

/-! ### The INIT column of R45 -/

def slotsZero : SlotFile := Vector.replicate Config.nSlots 0

def vrc8Init : Vrc8 := ⟨0, 0, 0, Config.prescalerPeriod⟩

def vrc16Init : Vrc16 := ⟨0, 0, 0, Config.prescalerPeriod⟩

def mmc3Init : Mmc3 := ⟨0, 0, false, false, 0, false, false⟩

def serialInit : Serial := ⟨0, 0, 0x0C, 0, 0, 0⟩

def indexedInit : Indexed := ⟨0, Vector.replicate 8 0⟩

def latchesInit : Latches := ⟨.undef, .undef⟩

/-- The IRQ counter state a variant's `irq` field gives, at its reset values. -/
def irqInit : IrqName → IrqState
  | .none => .none
  | .vrc8 => .vrc8 vrc8Init
  | .vrc16 => .vrc16 vrc16Init
  | .mmc3 => .mmc3 mmc3Init

/-- The family state a variant's `family` field gives, at its reset values. -/
def familyInit : FamilyName → FamilyState
  | .none => .none
  | .direct => .direct
  | .serial => .serial serialInit
  | .indexed => .indexed indexedInit
  | .latch => .latch latchesInit

end Sys2Proof.Machine
end

