-- ==== Sys2Proof/Machine/Sparse.lean ====
section
/-! DEFINITION. Plain-data containers: an association list with strictly rising keys, the byte memories
(spec/10_state.md R23, R39), the dispatch tables (R21) and the byte sequences of a ROM (R25). -/

namespace Sys2Proof.Machine

/-! ### Association lists with strictly rising keys -/

/-- The keys rise strictly. -/
abbrev assocSorted {α : Type} (l : List (Nat × α)) : Prop := (l.map Prod.fst).Pairwise (· < ·)

def assocGet {α : Type} : List (Nat × α) → Nat → Option α
  | [], _ => none
  | (k, v) :: t, a => if a = k then some v else assocGet t a

def assocInsert {α : Type} : List (Nat × α) → Nat → α → List (Nat × α)
  | [], a, v => [(a, v)]
  | (k, w) :: t, a, v =>
    if a < k then (a, v) :: (k, w) :: t
    else if a = k then (a, v) :: t
    else (k, w) :: assocInsert t a v

def assocErase {α : Type} (l : List (Nat × α)) (a : Nat) : List (Nat × α) :=
  l.filter (fun e => e.1 != a)

/-- The entries below `lo`. -/
def assocBelow {α : Type} (lo : Nat) (l : List (Nat × α)) : List (Nat × α) :=
  l.filter (fun e => decide (e.1 < lo))

/-- The entries from `lo` up. -/
def assocFrom {α : Type} (lo : Nat) (l : List (Nat × α)) : List (Nat × α) :=
  l.filter (fun e => decide (lo ≤ e.1))

/-! ### Byte memories -/

/-- A byte memory: the bytes that have been written, at strictly rising addresses. An address it does not list
has not been written: it reads as no byte here, and the machine's read of it delivers the memory's power-on
value, which is free (R13, R45; notes/assumptions/1.md). -/
abbrev Memory := List Host.Cell

/-- The canonical form of a memory of `size` bytes. -/
abbrev Memory.wf (size : Nat) (m : Memory) : Prop :=
  assocSorted m ∧ ∀ e ∈ m, e.1 < size

/-- The byte written at `a`, if one has been. -/
def memGet (m : Memory) (a : Nat) : Option Byte := assocGet m a

def memPut (m : Memory) (a : Nat) (v : Byte) : Memory := assocInsert m a v

/-! ### Dispatch tables -/

/-- One half of a dispatch table (R21): the entries that differ from the power-on entry. -/
abbrev Table (κ : Type) := List (Nat × HandlerRef κ)

/-- The power-on read half of an entry (R45). -/
def readPowerOn : ReadRef := ⟨.openBus, .none, 0⟩

/-- The power-on write half of an entry (R45). -/
def writePowerOn : WriteRef := ⟨.ignore, .none, 0⟩

/-- The canonical form of a table over a space of `size` addresses, `d` its power-on entry. -/
abbrev tableWf {κ : Type} (d : HandlerRef κ) (size : Nat) (t : Table κ) : Prop :=
  assocSorted t ∧ ∀ e ∈ t, e.1 < size ∧ e.2 ≠ d

def tableGet {κ : Type} (d : HandlerRef κ) (t : Table κ) (a : Nat) : HandlerRef κ :=
  (assocGet t a).getD d

/-- Overwrite one entry. -/
def tablePut {κ : Type} [DecidableEq κ] (d : HandlerRef κ) (t : Table κ) (a : Nat)
    (h : HandlerRef κ) : Table κ :=
  if h = d then assocErase t a else assocInsert t a h

/-- Overwrite the `n` entries from `lo` with `f` of their addresses. -/
def tableFill {κ : Type} [DecidableEq κ] (d : HandlerRef κ) (t : Table κ) (lo n : Nat)
    (f : Nat → HandlerRef κ) : Table κ :=
  assocBelow lo t
    ++ (List.range' lo n).filterMap (fun a => if f a = d then none else some (a, f a))
    ++ assocFrom (lo + n) t

/-- Whether a context is that of a trampoline. -/
def ctxIsTramp : Ctx → Bool
  | .tramp _ => true
  | .mapper => false
  | .none => false

/-- Whether a context refers to the mapper: any but `NONE` (R133). -/
def ctxRefersToMapper : Ctx → Bool
  | .tramp _ => true
  | .mapper => true
  | .none => false

/-- Put the power-on entry in place of every entry with a trampoline context (R302 step 1). -/
def tableDropTramps {κ : Type} (t : Table κ) : Table κ :=
  t.filter (fun e => !ctxIsTramp e.2.ctx)

/-- Put the power-on entry in place of every entry whose context is not `NONE` (R300, R308). -/
def tableRelease {κ : Type} (t : Table κ) : Table κ :=
  t.filter (fun e => !ctxRefersToMapper e.2.ctx)

/-! ### ROM byte sequences -/

/-- The number of bytes of a sequence, `len` (R7). -/
def runsLength : ByteRuns → Nat
  | [] => 0
  | (n, _) :: t => n + runsLength t

/-- The byte at an offset, if the sequence is that long. -/
def runsAt : ByteRuns → Nat → Option Byte
  | [], _ => none
  | (n, b) :: t, i => if i < n then some b else runsAt t (i - n)

end Sys2Proof.Machine
end

