-- ==== Sys2Proof/Machine/Variants.lean ====
section
/-! DEFINITION. The validity of a variant record (spec/46_mapper_variants.md R271) and the eight reference
variants (R272 to R279). -/

namespace Sys2Proof.Machine

/-! ### Validity (R271) -/

/-- A bank size: 1 KB to 32 KB, a power of two (R271 (1), R92). -/
def sizeOk (size : Nat) : Bool :=
  (List.range' Config.minLog2 (Config.maxLog2 + 1 - Config.minLog2)).any (fun n => size == 2 ^ n)

/-- A window is size-aligned and lies in `[lo, hi)` (R271 (1), (2)). -/
def windowOk (base size lo hi : Nat) : Bool :=
  sizeOk size && base % size == 0 && decide (lo ≤ base) && decide (base + size ≤ hi)

/-- No two of the `(base, size)` ranges overlap (R271 (2)). -/
def rangesDisjoint : List (Nat × Nat) → Bool
  | [] => true
  | (b, n) :: t => t.all (fun e => decide (b + n ≤ e.1) || decide (e.1 + e.2 ≤ b)) && rangesDisjoint t

def chrSourceIsLatched : ChrSource → Bool
  | .latched _ _ _ _ _ => true
  | .plain _ _ => false

/-- The conditions a record puts on a write kind it installs (R271 (6), (7), (8)). `WR_CHR_A12` needs `irq = MMC3`, since
`APPLYMAP` never creates one elsewhere (R203). R252 and R70 say a CPU address of a ROM window carries `WR_IGNORE` or a
register kind and R271 puts no such condition on a row: rows of `WR_STORE`, `WR_EXTERNAL`, `WR_CHR`, `WR_CHR_A12` and
`WR_NT_DYN` are accepted (DESIGN CHOICE, notes/assumptions/14.md). -/
def cpuWriteOk (v : Variant) (w : CpuWrite) : Bool :=
  w.kind.wellFormed && !w.kind.isTramp &&
  match w.kind with
  | .shift => v.family == .serial && v.mirror == .controllable
  | .select => v.family == .indexed
  | .data => v.family == .indexed
  | .mirror _ => v.mirror == .controllable
  | .m3Latch => v.irq == .mmc3
  | .m3Reload => v.irq == .mmc3
  | .m3Disable => v.irq == .mmc3
  | .m3Enable => v.irq == .mmc3
  | .vrcLatch => v.irq == .vrc8 || v.irq == .vrc16
  | .vrcLatchLo => v.irq == .vrc8 || v.irq == .vrc16
  | .vrcLatchHi => v.irq == .vrc8 || v.irq == .vrc16
  | .vrcCtrl => v.irq == .vrc8 || v.irq == .vrc16
  | .vrcAck => v.irq == .vrc8 || v.irq == .vrc16
  | .ignore => true
  | .external => true
  | .store => true
  | .chr _ _ => true
  | .chrA12 _ _ => v.irq == .mmc3
  | .ntDyn => true
  | .direct _ _ _ _ => true
  | .tramp _ => false

/-- The number of addresses of a space (R21). -/
def spaceSize : Space → Nat
  | .cpu => 2 ^ Config.cpuAw
  | .ppu => 2 ^ Config.ppuAw

/-- A trampoline row: a valid side effect, addresses of the space, family LATCH (R271 (6)). -/
def wrapOk (v : Variant) (w : Wrap) : Bool :=
  w.se.wellFormed && decide (w.addrHi < spaceSize w.space) && v.family == .latch

/-- A record that is a variant of this hardware (R271). A sanitize size with no window of its kind is any size but 0
bytes, which R140 shuts out (notes/assumptions/14.md). -/
def variantValid (v : Variant) : Bool :=
  v.prgWindows.all (fun w => windowOk w.base w.size Config.prgRomBase (Config.prgRomBase + Config.prgRomCount)
      && w.size == v.prgSanSize)
  && v.chrWindows.all (fun w => windowOk w.base w.size 0 Config.patternCount && w.size == v.chrSanSize
      && (!chrSourceIsLatched w.source || v.family == .latch))
  && rangesDisjoint (v.prgWindows.map (fun w => (w.base, w.size)))
  && rangesDisjoint (v.chrWindows.map (fun w => (w.base, w.size)))
  && decide (0 < v.prgSanSize) && decide (0 < v.chrSanSize)
  && v.cpuWrites.all (cpuWriteOk v)
  && v.wraps.all (wrapOk v)
  && (v.prgRamSize == 0 || v.prgRamSize == Config.prgRamCount)

/-! ### The reference variants -/

/-- Two 16 KB PRG windows, the first bank and the last (R272). -/
def prgWindows16k : List PrgWindow := [⟨0x8000, 16384, 0, 0⟩, ⟨0xC000, 16384, 1, -1⟩]

/-- One 8 KB CHR window (R272). -/
def chrWindows8k : List ChrWindow := [⟨0, 8192, .plain 0 0⟩]

/-- `V_NROM` (R272). -/
def vNrom : Variant where
  name := "V_NROM"
  family := .direct
  irq := .none
  altIrq := false
  mirror := .static
  prgSanSize := 16384
  chrSanSize := 8192
  prgWindows := prgWindows16k
  chrWindows := chrWindows8k
  cpuWrites := []
  wraps := []
  prgRamSize := 0

/-- `V_UNROM(mask)` (R273). -/
def vUnrom (mask : Byte) : Variant :=
  { vNrom with
    name := "V_UNROM"
    cpuWrites := [⟨0x8000, 0x8000, .direct false 0 14 mask⟩] }

/-- `V_CNROM(mask)` (R274). -/
def vCnrom (mask : Byte) : Variant :=
  { vNrom with
    name := "V_CNROM"
    cpuWrites := [⟨0x8000, 0x8000, .direct true 0 13 mask⟩] }

/-- `V_SERIAL` (R275). -/
def vSerial : Variant where
  name := "V_SERIAL"
  family := .serial
  irq := .none
  altIrq := false
  mirror := .controllable
  prgSanSize := 16384
  chrSanSize := 4096
  prgWindows := prgWindows16k
  chrWindows := [⟨0, 4096, .plain 0 0⟩, ⟨0x1000, 4096, .plain 1 1⟩]
  cpuWrites := [⟨0x8000, 0x8000, .shift⟩]
  wraps := []
  prgRamSize := 8192

/-- `V_VRC8` (R276). -/
def vVrc8 : Variant :=
  { vNrom with
    name := "V_VRC8"
    irq := .vrc8
    cpuWrites := [⟨0xF000, 0xF003, .vrcLatch⟩, ⟨0xF001, 0xF003, .vrcCtrl⟩, ⟨0xF002, 0xF003, .vrcAck⟩] }

/-- `V_VRC16` (R279). -/
def vVrc16 : Variant :=
  { vNrom with
    name := "V_VRC16"
    irq := .vrc16
    cpuWrites := [⟨0xF000, 0xF003, .vrcLatchLo⟩, ⟨0xF001, 0xF003, .vrcLatchHi⟩,
      ⟨0xF002, 0xF003, .vrcCtrl⟩, ⟨0xF003, 0xF003, .vrcAck⟩] }

/-- `V_INDEXED(alt_irq)`: one row for each register address class (R277). -/
def vIndexed (altIrq : Bool) : Variant where
  name := "V_INDEXED"
  family := .indexed
  irq := .mmc3
  altIrq := altIrq
  mirror := .controllable
  prgSanSize := 8192
  chrSanSize := 1024
  prgWindows := [⟨0x8000, 8192, 0, 0⟩, ⟨0xA000, 8192, 1, 0⟩, ⟨0xC000, 8192, 2, -2⟩, ⟨0xE000, 8192, 3, -1⟩]
  chrWindows := [⟨0x0000, 1024, .plain 0 0⟩, ⟨0x0400, 1024, .plain 1 1⟩, ⟨0x0800, 1024, .plain 2 0⟩,
    ⟨0x0C00, 1024, .plain 3 1⟩, ⟨0x1000, 1024, .plain 4 0⟩, ⟨0x1400, 1024, .plain 5 0⟩,
    ⟨0x1800, 1024, .plain 6 0⟩, ⟨0x1C00, 1024, .plain 7 0⟩]
  cpuWrites := classTable.map (fun e => ⟨e.1, Config.classMask, e.2⟩)
  wraps := []
  prgRamSize := 8192

/-- `V_LATCH` (R278), with the trigger addresses of R103. -/
def vLatch : Variant where
  name := "V_LATCH"
  family := .latch
  irq := .none
  altIrq := false
  mirror := .controllable
  prgSanSize := 8192
  chrSanSize := 4096
  prgWindows := [⟨0x8000, 8192, 0, 0⟩, ⟨0xA000, 8192, 1, -3⟩, ⟨0xC000, 8192, 2, -2⟩, ⟨0xE000, 8192, 3, -1⟩]
  chrWindows := [⟨0x0000, 4096, .latched false 0 1 0 0⟩, ⟨0x1000, 4096, .latched true 2 3 0 0⟩]
  cpuWrites := [⟨0xA000, 0xF000, .direct false 0 13 0x0F⟩, ⟨0xB000, 0xF000, .direct true 0 12 0x1F⟩,
    ⟨0xC000, 0xF000, .direct true 1 12 0x1F⟩, ⟨0xD000, 0xF000, .direct true 2 12 0x1F⟩,
    ⟨0xE000, 0xF000, .direct true 3 12 0x1F⟩, ⟨0xF000, 0xF000, .mirror 0⟩]
  wraps := [⟨.ppu, 0x0FD8, 0x0FD8, .latch 0 1⟩, ⟨.ppu, 0x0FE8, 0x0FE8, .latch 0 2⟩,
    ⟨.ppu, 0x1FD8, 0x1FDF, .latch 1 1⟩, ⟨.ppu, 0x1FE8, 0x1FEF, .latch 1 2⟩]
  prgRamSize := 0

end Sys2Proof.Machine
end

