-- ==== Sys2Proof/Machine/State.lean ====
section
/-! DEFINITION. The state of the block (spec/10_state.md R20), the reasons a step stops, and the power-on
state (R45). -/

namespace Sys2Proof.Machine

/-- One bus of the AddressDispatchBus: its dispatch table (R21), byte store (R23) and last-bus-value
register (R24). -/
structure Bus where
  rd : Table ReadKind
  wr : Table WriteKind
  store : Memory
  last : Byte
deriving DecidableEq, Repr

structure State where
  /-- The parameters the instance is built with (R7, R41): never changed. -/
  params : Params
  /-- The wired inputs of the command now or last executed (R46). -/
  wires : Wires
  /-- The Rom `INIT` bound (R25, R301). -/
  rom : Rom
  /-- The CPU bus. -/
  cpu : Bus
  /-- The PPU bus. -/
  ppu : Bus
  /-- `prg_bank[0..31]` (R26). -/
  prgBank : SlotFile
  /-- `chr_bank[0..31]` (R26). -/
  chrBank : SlotFile
  /-- `mirror_mode` (R28). -/
  mirrorMode : MirrorMode
  /-- IRQ counter state (R29 to R32). -/
  irq : IrqState
  /-- `irq_out` (R33). -/
  irqOut : Bool
  /-- `tramp` (R34). -/
  tramp : List TrampRecord
  /-- Family state (R35 to R38). -/
  family : FamilyState
  /-- `chr_ram` (R39). -/
  chrRam : Memory
  /-- `phase` (R40). -/
  phase : Phase
  /-- The model's own: how many draws have been taken (R13, R127; notes/assumptions/2.md). -/
  draws : Nat
  /-- The model's own: how many responses have been given, which makes the free bits of each new ones (R90;
  notes/assumptions/9.md). -/
  answers : Nat
  /-- The model's own: the commands the environment has issued and the block has not yet run, oldest first
  (R9; notes/assumptions/3.md). -/
  port : List Issue
  /-- The response of the command last executed, if it has one (R90). -/
  resp : Option Response
  /-- The calls on the sink the command last executed made, oldest first (R46, R325, R326). -/
  calls : List SinkCall
deriving DecidableEq, Repr

/-- The block raises no exception and no operation faults (R9, R320): there is no fault. -/
inductive Fault where
deriving DecidableEq, Repr

/-- Why a command is refused (R12): each is a word or a situation for which the spec gives the block no
behaviour, so a refusal errs toward unprovable (safe). -/
inductive Refusal where
  /-- The instruction has no meaning in the model yet. No arm of `exec` answers it. Safe. -/
  | notModelled (mnemonic : String)
  /-- Raised by `step`: the command word is no command (R105, U4, U13). Safe. -/
  | invalidCommand (why : Invalid)
  /-- Raised by `step` and the four install commands: a descriptor that the command may not carry
  (R105, U4). Safe. -/
  | illFormed
  /-- Raised by every command a phase shuts out (R309, R360, U5). Safe. -/
  | wrongPhase (phase : Phase)
  /-- Raised by `NORMBANK` with `banksize = 0` (R140, U14). Safe. -/
  | zeroBankSize
  /-- Raised by `RD`, `WR` and the trampoline kinds: a TRAMP context that names no record of its direction.
  No entry of a state that satisfies the trampoline invariant does (R226, R228; R321 class 3). Safe. -/
  | danglingContext
  /-- Raised by `step`: the clock input is below its last value (R46, U17). Safe. -/
  | clockDecreased
  /-- Raised by `step`: the variant record is no variant of this hardware (R271, U19). Safe. -/
  | notAVariant
deriving DecidableEq, Repr

/-- A bus at power-on: every entry `(RD_OPEN, NONE, 0)` / `(WR_IGNORE, NONE, 0)`, the store unwritten, the
last bus value a draw (R45). -/
def busPowerOn (sp : Space) : Bus := ⟨[], [], [], Config.powerOnLast sp⟩

/-- The Rom before `INIT` binds one: no bytes (DESIGN CHOICE, notes/assumptions/7.md). -/
def romUnbound : Rom := ⟨[], [], .horizontal, 0, 0⟩

/-- The wired inputs before any command (DESIGN CHOICE, notes/assumptions/7.md). -/
def wiresPowerOn : Wires := ⟨romUnbound, 0, ⟨0⟩, 0⟩

/-- The power-on state of an instance built with the given parameters (R45, column "power-on"). -/
def State.powerOn (p : Params) : State where
  params := p
  wires := wiresPowerOn
  rom := romUnbound
  cpu := busPowerOn .cpu
  ppu := busPowerOn .ppu
  prgBank := slotsZero
  chrBank := slotsZero
  mirrorMode := .horizontal
  irq := irqInit p.variant.irq
  irqOut := false
  tramp := []
  family := familyInit p.variant.family
  chrRam := []
  phase := .empty
  draws := 0
  answers := 0
  port := []
  resp := none
  calls := []

/-- The parameters of the reset instance (DESIGN CHOICE, notes/assumptions/6.md): `V_NROM`, the default
`VRC_SCANLINE_CLOCK` and VRC control layout, the free `HAS_BATTERY` and `N_VARIANTS`. -/
def paramsDefault : Params := ⟨vNrom, .none, Config.hasBattery, Config.vrcBits, Config.nVariants⟩

/-- The machine at power-on. -/
def State.reset : State := State.powerOn paramsDefault

end Sys2Proof.Machine
end

