-- ==== Sys2Proof/Machine/Flags.lean ====
section
/-! DEFINITION. The flags of the block (spec/10_state.md R31, R43) and the steps of the counters that set
them, as functions of one register group: the VRC control bits, prescaler and counters
(spec/43_irq_counters.md R180 to R186), the A12 filter and the MMC3 counter (R193 to R199). A step that may
raise the request answers whether it does; raising it is `State.irqAssert` (Ops.lean). -/

namespace Sys2Proof.Machine

/-! ### VRC control bits (R31), at the positions of the instance's layout -/

/-- M selects cycle mode. -/
def ctrlM (l : VrcBits) (c : BitVec 4) : Bool := c.getLsbD l.m == l.cycleMode
def ctrlA (l : VrcBits) (c : BitVec 4) : Bool := c.getLsbD l.a
def ctrlE (l : VrcBits) (c : BitVec 4) : Bool := c.getLsbD l.e
def ctrlS (l : VrcBits) (c : BitVec 4) : Bool := c.getLsbD l.s

/-- `vrc_ctrl[2] <- vrc_ctrl[1]`: E takes A, the other bits stay (R186). -/
def ctrlAck (l : VrcBits) (c : BitVec 4) : BitVec 4 :=
  (c &&& ~~~(1#4 <<< l.e.val)) ||| ((BitVec.ofBool (ctrlA l c)).setWidth 4 <<< l.e.val)

/-! ### VRC prescaler and counters -/

/-- One prescaler step in cycle mode: the new value, and whether it underflowed (R183). -/
def prescalerStep (p : BitVec 16) : BitVec 16 × Bool :=
  let q := p - Config.prescalerStep
  if q.toInt ≤ 0 then (q + Config.prescalerPeriod, true) else (q, false)

/-- One clock of the 8-bit counter, and whether it asserts (R184). -/
def vrc8Clock (l : VrcBits) (r : Vrc8) : Vrc8 × Bool :=
  if r.counter = 0xFF then ({ r with counter := r.latch }, ctrlE l r.ctrl)
  else ({ r with counter := r.counter + 1 }, false)

/-- Replace bits 7:0 of a 16-bit register. -/
def setLow (w : BitVec 16) (v : Byte) : BitVec 16 := w.extractLsb' 8 8 ++ v

/-- Replace bits 15:8 of a 16-bit register. -/
def setHigh (w : BitVec 16) (v : Byte) : BitVec 16 := v ++ w.extractLsb' 0 8

/-- Bits 7:0 of a 16-bit register. -/
def lowByte (w : BitVec 16) : Byte := w.extractLsb' 0 8

/-- One clock of the 16-bit counter, whole or in the 8-bit sub-mode, and whether it asserts (R184). -/
def vrc16Clock (l : VrcBits) (r : Vrc16) : Vrc16 × Bool :=
  if ctrlS l r.ctrl then
    if lowByte r.counter = 0xFF then
      ({ r with counter := setLow r.counter (lowByte r.latch) }, ctrlE l r.ctrl)
    else ({ r with counter := setLow r.counter (lowByte r.counter + 1) }, false)
  else
    if r.counter = 0xFFFF then ({ r with counter := r.latch }, ctrlE l r.ctrl)
    else ({ r with counter := r.counter + 1 }, false)

/-- `VrcTick()` of variant (a), and whether it asserts (R183). -/
def vrc8Tick (l : VrcBits) (scan : ScanlineClock) (r : Vrc8) : Vrc8 × Bool :=
  if ctrlM l r.ctrl then
    let p := prescalerStep r.prescaler
    if p.2 then vrc8Clock l { r with prescaler := p.1 } else ({ r with prescaler := p.1 }, false)
  else
    match scan with
    | .everyTick => vrc8Clock l r
    | .none => (r, false)

/-- `VrcTick()` of variant (b), and whether it asserts (R183). -/
def vrc16Tick (l : VrcBits) (scan : ScanlineClock) (r : Vrc16) : Vrc16 × Bool :=
  if ctrlM l r.ctrl then
    let p := prescalerStep r.prescaler
    if p.2 then vrc16Clock l { r with prescaler := p.1 } else ({ r with prescaler := p.1 }, false)
  else
    match scan with
    | .everyTick => vrc16Clock l r
    | .none => (r, false)

/-- `VrcSetCtrl(v)` of variant (a) (R182). -/
def vrc8SetCtrl (l : VrcBits) (v : Byte) (r : Vrc8) : Vrc8 :=
  let c : BitVec 4 := v.extractLsb' 0 4
  { r with
    ctrl := c
    counter := if ctrlE l c then r.latch else r.counter
    prescaler := Config.prescalerPeriod }

/-- `VrcSetCtrl(v)` of variant (b) (R182). -/
def vrc16SetCtrl (l : VrcBits) (v : Byte) (r : Vrc16) : Vrc16 :=
  let c : BitVec 4 := v.extractLsb' 0 4
  { r with
    ctrl := c
    counter := if ctrlE l c then r.latch else r.counter
    prescaler := Config.prescalerPeriod }

/-! ### MMC3 counter and A12 filter -/

/-- `Fire(old, new)` (R197). -/
def m3Fire (altIrq : Bool) (old new : BitVec 8) : Bool :=
  if altIrq then old == 1 && new == 0 else new == 0

/-- `M3Clock()`, and whether it asserts (R196). -/
def m3Clock (altIrq : Bool) (r : Mmc3) : Mmc3 × Bool :=
  let r' :=
    if r.reloadPending || r.counter == 0 then { r with counter := r.latch, reloadPending := false }
    else { r with counter := r.counter - 1 }
  (r', m3Fire altIrq r.counter r'.counter && r.enable)

/-- A low-to-high transition after at least `A12_MIN_LOW` cycles low (R193, R195). -/
def a12Qualified (r : Mmc3) (t : Nat) : Bool :=
  !r.a12High && decide (Config.a12MinLow ≤ t - r.a12LowSince)

/-- `A12Sample` for a sampled address with A12 = `a12` at clock `t`, and whether it asserts (R193). -/
def a12Step (altIrq : Bool) (a12 : Bool) (t : Nat) (r : Mmc3) : Mmc3 × Bool :=
  if r.a12Init then
    if a12 then
      let c := if a12Qualified r t then m3Clock altIrq r else (r, false)
      ({ c.1 with a12High := true }, c.2)
    else
      ({ r with a12LowSince := if r.a12High then t else r.a12LowSince, a12High := false }, false)
  else
    ({ r with a12Init := true, a12High := a12, a12LowSince := if a12 then r.a12LowSince else t }, false)

end Sys2Proof.Machine
end

