-- ==== Sys2Proof/Machine/Operands.lean ====
section
/-! DEFINITION. Operand forms, as functions without state: bank normalisation (spec/41_bank_registers.md R140),
window offsets (spec/20_memory.md R67), mirror translation (spec/42_mirror.md R160, R161), the address of a
table entry (R60) and the forwarding chain of a trampoline (spec/44_trampoline.md R222, R226). -/

namespace Sys2Proof.Machine

/-- The table entry an address of a command names: `a[13:0]` on the PPU bus (R60). -/
def entryIndex (sp : Space) (a : Addr) : Nat :=
  match sp with
  | .cpu => a.toNat
  | .ppu => a.toNat % spaceSize .ppu

/-- `NormalizeBank(idx, mem, size)` for `size > 0` (R140, 90_conflicts.md C1). -/
def normalizeBank (idx : Int) (mem size : Nat) : Byte :=
  let total := mem / size
  if total = 0 then 0
  else if idx < 0 then BitVec.ofNat 8 ((total - (-idx).toNat % total) % total)
  else BitVec.ofNat 8 (idx.toNat % total)

/-- The size in bytes a log2 field names, `1 << f2` (R107). -/
def sizeOfLog2 (log2 : Byte) : Nat := 2 ^ log2.toNat

/-- The log2 field of a window's size (R302). -/
def log2Field (size : Nat) : Byte := BitVec.ofNat 8 (Nat.log2 size)

/-- `bank[slot] * size + (param mod size)` (R67). -/
def windowIndex (bank : Byte) (log2 : Byte) (param : Addr) : Nat :=
  bank.toNat * sizeOfLog2 log2 + param.toNat % sizeOfLog2 log2

/-- Every slot number a descriptor can name is a slot of the file (R92). -/
theorem slot_lt_nSlots (s : Slot) : s.toNat < Config.nSlots := Nat.lt_of_lt_of_le s.isLt (by decide)

/-- A slot of the file. -/
def slotGet (f : SlotFile) (s : Slot) : Byte := f[s.toNat]'(slot_lt_nSlots s)

def slotSet (f : SlotFile) (s : Slot) (v : Byte) : SlotFile :=
  f.set s.toNat v (slot_lt_nSlots s)

/-- Every slot through one function. -/
def slotMap (g : Byte → Byte) (f : SlotFile) : SlotFile :=
  ⟨(f.toList.map g).toArray, by simp⟩

/-- `PHYS[mode][w]` (R161). -/
def physWindow (mode : MirrorMode) (w : BitVec 2) : BitVec 2 :=
  match mode with
  | .horizontal => w &&& 2#2
  | .vertical => w &&& 1#2
  | .oneScreenA => 0
  | .oneScreenB => 1
  | .fourScreen => w

/-- `MirrorAddress(a, mode)`: `0x2000 | (phys << 10) | a[9:0]` (R160). -/
def mirrorAddress (a : Addr) (mode : MirrorMode) : Addr :=
  BitVec.ofNat 16 Config.nametableBase ||| (0#4 ++ (physWindow mode (a.extractLsb' 10 2) ++ a.extractLsb' 0 10))

/-- Bit 12 of a PPU address (R102). -/
def a12Of (a : Addr) : Bool := a.getLsbD 12

/-- Whether an address is in the sampled range `$0000`-`$1FFF` (R193). -/
def a12Sampled (a : Addr) : Bool := decide (a.toNat < Config.patternCount)

/-- The context of a read kind other than a trampoline (R93). -/
def readCtx : ReadKind → Ctx
  | .openBus => .none
  | .external => .none
  | .store => .none
  | .prg _ _ => .mapper
  | .chr _ _ => .mapper
  | .chrA12 _ _ => .mapper
  | .chrLatched _ _ _ _ => .mapper
  | .ntDyn => .mapper
  | .tramp _ => .mapper

/-- The context of a write kind other than a trampoline (R94). -/
def writeCtx : WriteKind → Ctx
  | .ignore => .none
  | .external => .none
  | .store => .none
  | .chr _ _ => .mapper
  | .chrA12 _ _ => .mapper
  | .ntDyn => .mapper
  | .direct _ _ _ _ => .mapper
  | .shift => .mapper
  | .select => .mapper
  | .data => .mapper
  | .mirror _ => .mapper
  | .m3Latch => .mapper
  | .m3Reload => .mapper
  | .m3Disable => .mapper
  | .m3Enable => .mapper
  | .vrcLatch => .mapper
  | .vrcLatchLo => .mapper
  | .vrcLatchHi => .mapper
  | .vrcCtrl => .mapper
  | .vrcAck => .mapper
  | .tramp _ => .mapper

/-- Where a read handler's invocation ends: the side effects met on the way, outermost first, and the kind and
`param` forwarded to (R222, R227). A chain visits records of strictly falling index (R226), so as many steps
as there are records suffice. `none`: a context that names no read record. -/
def resolveRead (recs : List TrampRecord) : Nat → ReadRef → Option (List SideEffect × ReadKind × Addr)
  | fuel, ⟨.tramp se, .tramp k, _⟩ =>
    match fuel, recs[k]? with
    | n + 1, some ⟨.rd h, _⟩ => (resolveRead recs n h).map (fun r => (se :: r.1, r.2))
    | _, _ => none
  | _, ⟨.tramp _, .none, _⟩ => none
  | _, ⟨.tramp _, .mapper, _⟩ => none
  | _, ⟨fn, _, param⟩ => some ([], fn, param)

/-- The same for a write handler (R223). -/
def resolveWrite (recs : List TrampRecord) : Nat → WriteRef → Option (List SideEffect × WriteKind × Addr)
  | fuel, ⟨.tramp se, .tramp k, _⟩ =>
    match fuel, recs[k]? with
    | n + 1, some ⟨.wr h, _⟩ => (resolveWrite recs n h).map (fun r => (se :: r.1, r.2))
    | _, _ => none
  | _, ⟨.tramp _, .none, _⟩ => none
  | _, ⟨.tramp _, .mapper, _⟩ => none
  | _, ⟨fn, _, param⟩ => some ([], fn, param)

end Sys2Proof.Machine
end

