-- ==== Sys2Proof/Machine/Ops.lean ====
section
/-! DEFINITION. The named operations over state: the two buses and their memories (spec/20_memory.md), the slot
file (spec/41_bank_registers.md R141, R142, R144), the mirror mode (spec/42_mirror.md R165), the interrupt
request (spec/60_exceptions.md R325, R326), the lifecycle gate (R309) and the two halves of a bus transaction
(spec/40_dispatch_bus.md R122, R123). The block takes no exception (R320): what it has in place of one is
`State.irqAssert`, and in place of a return `State.irqClear` (R329, R330). -/

namespace Sys2Proof.Machine

/-- What one step or one meaning answers. -/
abbrev Result := Host.Outcome State Fault Refusal

/-! ### Buses -/

def State.bus (s : State) : Space → Bus
  | .cpu => s.cpu
  | .ppu => s.ppu

def State.setBus (s : State) (sp : Space) (b : Bus) : State :=
  match sp with
  | .cpu => { s with cpu := b }
  | .ppu => { s with ppu := b }

/-- `last[sp] <- v`. -/
def State.setLast (s : State) (sp : Space) (v : Byte) : State :=
  s.setBus sp { s.bus sp with last := v }

/-- `tab[sp][a].rd` for the address `a` of a command. -/
def State.readEntry (s : State) (sp : Space) (a : Addr) : ReadRef :=
  tableGet readPowerOn (s.bus sp).rd (entryIndex sp a)

/-- `tab[sp][a].wr` for the address `a` of a command. -/
def State.writeEntry (s : State) (sp : Space) (a : Addr) : WriteRef :=
  tableGet writePowerOn (s.bus sp).wr (entryIndex sp a)

/-- `tab[sp][a].rd <- h` for the address `a` of a command. -/
def State.putReadEntry (s : State) (sp : Space) (a : Addr) (h : ReadRef) : State :=
  s.setBus sp { s.bus sp with rd := tablePut readPowerOn (s.bus sp).rd (entryIndex sp a) h }

/-- `tab[sp][a].wr <- h` for the address `a` of a command. -/
def State.putWriteEntry (s : State) (sp : Space) (a : Addr) (h : WriteRef) : State :=
  s.setBus sp { s.bus sp with wr := tablePut writePowerOn (s.bus sp).wr (entryIndex sp a) h }

/-- The `n` entries from `lo` of one space, both halves, as functions of their addresses. -/
def State.fillEntries (s : State) (sp : Space) (lo n : Nat) (rd : Nat → ReadRef) (wr : Nat → WriteRef) :
    State :=
  s.setBus sp { s.bus sp with
    rd := tableFill readPowerOn (s.bus sp).rd lo n rd
    wr := tableFill writePowerOn (s.bus sp).wr lo n wr }

/-- Drop every trampoline of both tables and empty the record list (R302 step 1). -/
def State.dropTramps (s : State) : State :=
  { s with
    cpu := { s.cpu with rd := tableDropTramps s.cpu.rd, wr := tableDropTramps s.cpu.wr }
    ppu := { s.ppu with rd := tableDropTramps s.ppu.rd, wr := tableDropTramps s.ppu.wr }
    tramp := [] }

/-- Release every entry that refers to the mapper and empty the record list (R300, R308). -/
def State.releaseEntries (s : State) : State :=
  { s with
    cpu := { s.cpu with rd := tableRelease s.cpu.rd, wr := tableRelease s.cpu.wr }
    ppu := { s.ppu with rd := tableRelease s.ppu.rd, wr := tableRelease s.ppu.wr }
    tramp := [] }

/-! ### Memories -/

/-- `store[sp][i]`; a byte never written is the power-on draw (R13, R128). -/
def State.storeByte (s : State) (sp : Space) (i : Nat) : Byte :=
  (memGet (s.bus sp).store i).getD (Config.powerOnStore sp i)

/-- `store[sp][i] <- v`. -/
def State.putStore (s : State) (sp : Space) (i : Nat) (v : Byte) : State :=
  s.setBus sp { s.bus sp with store := memPut (s.bus sp).store i v }

/-- `chr_ram[i]`; a byte never written is the power-on draw (R13, R39). -/
def State.chrRamByte (s : State) (i : Nat) : Byte :=
  (memGet s.chrRam i).getD (Config.powerOnChrRam i)

/-- `chr_ram[i] <- v`. -/
def State.putChrRam (s : State) (i : Nat) (v : Byte) : State :=
  { s with chrRam := memPut s.chrRam i v }

/-- `PRG_SIZE` of the bound Rom (R7). -/
def State.prgSize (s : State) : Nat := runsLength s.rom.prg

/-- `CHR_SIZE` of the bound Rom (R7). -/
def State.chrSize (s : State) : Nat := runsLength s.rom.chr

/-- `ChrMemSize()` (R144). -/
def State.chrMemSize (s : State) : Nat :=
  if 0 < s.chrSize then s.chrSize else Config.chrRamSize

/-- `ChrMem()[index]` if `index < ChrMemSize()` (R144, R147). -/
def State.chrMemAt (s : State) (index : Nat) : Option Byte :=
  if 0 < s.chrSize then runsAt s.rom.chr index
  else if index < Config.chrRamSize then some (s.chrRamByte index) else none

/-- A draw (R13): the next free byte. -/
def State.takeDraw (s : State) : State × Byte :=
  ({ s with draws := s.draws + 1 }, Config.freeByte s.draws)

/-! ### Mapper registers -/

/-- `SetPrgBank(slot, size, idx)` (R141). -/
def State.setPrgBank (s : State) (slot : Slot) (size : Nat) (idx : Int) : State :=
  { s with prgBank := slotSet s.prgBank slot (normalizeBank idx s.prgSize size) }

/-- `SetChrBank(slot, size, idx)` (R142). -/
def State.setChrBank (s : State) (slot : Slot) (size : Nat) (idx : Int) : State :=
  { s with chrBank := slotSet s.chrBank slot (normalizeBank idx s.chrMemSize size) }

/-- `SetMirror(code)`: a reserved code leaves the mode (R165). -/
def State.setMirrorCode (s : State) (code : BitVec 3) : State :=
  { s with mirrorMode := (mirrorOfCode code).getD s.mirrorMode }

/-- `SetMirror` of a mode's code. -/
def State.setMirror (s : State) (m : MirrorMode) : State := s.setMirrorCode (mirrorCode m)

def State.setIrq (s : State) (r : IrqState) : State := { s with irq := r }

def State.setFamily (s : State) (r : FamilyState) : State := { s with family := r }

/-! ### The interrupt request -/

/-- `IrqAssert()` (R325). -/
def State.irqAssert (s : State) : State :=
  { s with irqOut := true, calls := s.calls ++ [.irq] }

/-- `IrqClear()` (R326). -/
def State.irqClear (s : State) : State :=
  { s with irqOut := false, calls := s.calls ++ [.clearIrq] }

/-- Install a counter step's result and assert if it says so. -/
def State.stepIrq (s : State) (r : IrqState) (asserts : Bool) : State :=
  if asserts then (s.setIrq r).irqAssert else s.setIrq r

/-! ### Lifecycle and responses -/

/-- Phase `LOADED` or `MAPPED`. -/
def State.live (s : State) : Bool :=
  match s.phase with
  | .loaded => true
  | .mapped => true
  | .empty => false
  | .dead => false

/-- `require phase in {LOADED, MAPPED}`, else refuse (R309). -/
def State.whenLive (s : State) (r : Result) : Result :=
  if s.live then r else .refused (.wrongPhase s.phase)

/-- The command's response: what it answers, with the bits of `resp` it does not define free (R90, R91). -/
def State.respond (s : State) (r : Answer) : State :=
  { s with resp := some (responseOf (Config.freeResp s.answers) r), answers := s.answers + 1 }

/-! ### The two halves of a bus transaction -/

/-- `RD` around an invoked read kind: the output is preloaded with the last bus value, and what the kind
leaves there becomes the last bus value and the response (R122). -/
def State.readThrough (s : State) (sp : Space) (kind : Byte → State → State × Byte) : State :=
  let r := kind (s.bus sp).last s
  (r.1.setLast sp r.2).respond (.byte r.2)

/-- `WR` around an invoked write kind: the written byte is the last bus value before the kind runs (R123). -/
def State.writeThrough (s : State) (sp : Space) (v : Byte) (kind : State → State) : State :=
  kind (s.setLast sp v)

end Sys2Proof.Machine
end

