-- ==== Sys2Proof/Machine/BusKinds.lean ====
section
/-! DEFINITION. The AddressDispatchBus family (spec/40_dispatch_bus.md): the kinds that touch only bus-owned
state (R126 to R131) and the commands that install a handler (R120, R121). -/

namespace Sys2Proof.Machine

/-! ### Kinds -/

/-- `RD_OPEN` (R126). -/
def kindRdOpen (out : Byte) (s : State) : State × Byte := (s, out)

/-- `RD_EXTERNAL`: a draw (R127). -/
def kindRdExternal (_ : Byte) (s : State) : State × Byte := s.takeDraw

/-- `RD_STORE` (R128). -/
def kindRdStore (sp : Space) (param : Addr) (out : Byte) (s : State) : State × Byte :=
  (s, if param.toNat < spaceSize sp then s.storeByte sp param.toNat else out)

/-- `WR_STORE` (R131). -/
def kindWrStore (sp : Space) (param : Addr) (v : Byte) (s : State) : State :=
  if param.toNat < spaceSize sp then s.putStore sp param.toNat v else s

/-! ### Meanings of the kinds -/

/-- `RD_OPEN` (R126). -/
def execRdOpen (c : ReadCall) (s : State) : Result :=
  .next (s.readThrough c.sp kindRdOpen)

/-- `RD_EXTERNAL` (R127). -/
def execRdExternal (c : ReadCall) (s : State) : Result :=
  .next (s.readThrough c.sp kindRdExternal)

/-- `RD_STORE` (R128). -/
def execRdStore (c : ReadCall) (s : State) : Result :=
  .next (s.readThrough c.sp (kindRdStore c.sp c.param))

/-- `WR_IGNORE`: no effect of its own (R129). -/
def execWrIgnore (c : WriteCall) (s : State) : Result :=
  .next (s.writeThrough c.sp c.v id)

/-- `WR_EXTERNAL`: no effect on the state of the block (R130). -/
def execWrExternal (c : WriteCall) (s : State) : Result :=
  .next (s.writeThrough c.sp c.v id)

/-- `WR_STORE` (R131). -/
def execWrStore (c : WriteCall) (s : State) : Result :=
  .next (s.writeThrough c.sp c.v (kindWrStore c.sp c.param c.v))

/-! ### Installing handlers -/

/-- `SETRD` (R120, R133). -/
def execSetrd (sp : Space) (a : Addr) (hd : Kind) (param : Addr) (s : State) : Result :=
  match hd with
  | .read fn =>
    if hd.okSetrd then
      if readCtx fn = .none then .next (s.putReadEntry sp a ⟨fn, readCtx fn, param⟩)
      else s.whenLive (.next (s.putReadEntry sp a ⟨fn, readCtx fn, param⟩))
    else .refused .illFormed
  | .write _ => .refused .illFormed

/-- `SETWR` (R121, R133). -/
def execSetwr (sp : Space) (a : Addr) (hd : Kind) (param : Addr) (s : State) : Result :=
  match hd with
  | .write fn =>
    if hd.okSetwr then
      if writeCtx fn = .none then .next (s.putWriteEntry sp a ⟨fn, writeCtx fn, param⟩)
      else s.whenLive (.next (s.putWriteEntry sp a ⟨fn, writeCtx fn, param⟩))
    else .refused .illFormed
  | .read _ => .refused .illFormed

end Sys2Proof.Machine
end

