-- ==== Sys2Proof/Machine/Banks.lean ====
section
/-! DEFINITION. The BankRegisterModel family (spec/41_bank_registers.md): `NORMBANK`, `SANITIZE` and the kinds
that access a banked window. -/

namespace Sys2Proof.Machine

/-- The PRG byte of a window access, or the output unmodified (R145). -/
def State.readPrg (s : State) (slot : Slot) (log2 : Byte) (param : Addr) (out : Byte) : Byte :=
  (runsAt s.rom.prg (windowIndex (slotGet s.prgBank slot) log2 param)).getD out

/-- The CHR byte of a window access, or the output unmodified (R147). -/
def State.readChr (s : State) (slot : Slot) (log2 : Byte) (param : Addr) (out : Byte) : Byte :=
  (s.chrMemAt (windowIndex (slotGet s.chrBank slot) log2 param)).getD out

/-- A write to a CHR window: it reaches `chr_ram`, and only when there is no CHR ROM (R148). -/
def State.writeChr (s : State) (slot : Slot) (log2 : Byte) (param : Addr) (v : Byte) : State :=
  let index := windowIndex (slotGet s.chrBank slot) log2 param
  if s.chrSize = 0 ∧ index < Config.chrRamSize then s.putChrRam index v else s

/-- `SanitizeRegs`: every slot normalised again for the bound Rom (R143). -/
def State.sanitize (s : State) : State :=
  { s with
    prgBank := slotMap (fun b => normalizeBank b.toNat s.prgSize s.params.variant.prgSanSize) s.prgBank
    chrBank := slotMap (fun b => normalizeBank b.toNat s.chrMemSize s.params.variant.chrSanSize) s.chrBank }

/-- `RD_PRG` (R145). -/
def kindRdPrg (slot : Slot) (log2 : Byte) (param : Addr) (out : Byte) (s : State) : State × Byte :=
  (s, s.readPrg slot log2 param out)

/-- `RD_CHR` (R147). -/
def kindRdChr (slot : Slot) (log2 : Byte) (param : Addr) (out : Byte) (s : State) : State × Byte :=
  (s, s.readChr slot log2 param out)

/-- `WR_CHR` (R148). -/
def kindWrChr (slot : Slot) (log2 : Byte) (param : Addr) (v : Byte) (s : State) : State :=
  s.writeChr slot log2 param v

/-- `RD_PRG` (R145). -/
def execRdPrg (c : ReadCall) (slot : Slot) (log2 : Byte) (s : State) : Result :=
  .next (s.readThrough c.sp (kindRdPrg slot log2 c.param))

/-- `RD_CHR` (R147). -/
def execRdChr (c : ReadCall) (slot : Slot) (log2 : Byte) (s : State) : Result :=
  .next (s.readThrough c.sp (kindRdChr slot log2 c.param))

/-- `WR_CHR` (R148). -/
def execWrChr (c : WriteCall) (slot : Slot) (log2 : Byte) (s : State) : Result :=
  .next (s.writeThrough c.sp c.v (kindWrChr slot log2 c.param c.v))

/-- `NORMBANK` (R140): legal in every phase, changes no state but the response; `banksize = 0` is outside its
contract. -/
def execNormbank (idx : BitVec 16) (memsize : BitVec 32) (banksize : BitVec 16) (s : State) : Result :=
  if banksize.toNat = 0 then .refused .zeroBankSize
  else .next (s.respond (.byte (normalizeBank idx.toInt memsize.toNat banksize.toNat)))

/-- `SANITIZE` (R143). -/
def execSanitize (s : State) : Result := s.whenLive (.next s.sanitize)

end Sys2Proof.Machine
end

