-- ==== Sys2Proof/Machine/Families.lean ====
section
/-! DEFINITION. The protocol families of the mapper catalog (spec/45_mapper_families.md). A kind of a family
the instance does not have has no effect (R235). -/

namespace Sys2Proof.Machine

/-! ### Serial (R236, R237) -/

/-- The mirror mode of `ctl[1:0]` (R36, R237). -/
def serialMirror (ctl : BitVec 5) : MirrorMode :=
  match (ctl.extractLsb' 0 2).toNat with
  | 0 => .oneScreenA
  | 1 => .oneScreenB
  | 2 => .vertical
  | _ => .horizontal

/-- The PRG part of `SerialRecompute()`, by `ctl[3:2]` (R237). -/
def State.serialPrg (s : State) (r : Serial) : State :=
  let p : BitVec 5 := r.prgreg &&& 0x0F
  match (r.ctl.extractLsb' 2 2).toNat with
  | 2 => (s.setPrgBank 0 16384 0).setPrgBank 1 16384 p.toNat
  | 3 => (s.setPrgBank 0 16384 p.toNat).setPrgBank 1 16384 (-1)
  | _ => (s.setPrgBank 0 16384 (p &&& 0x0E).toNat).setPrgBank 1 16384 ((p &&& 0x0E) ||| 1).toNat

/-- The CHR part of `SerialRecompute()`, by `ctl[4]` (R237). -/
def State.serialChr (s : State) (r : Serial) : State :=
  if r.ctl.getLsbD 4 then (s.setChrBank 0 4096 r.chr0.toNat).setChrBank 1 4096 r.chr1.toNat
  else
    (s.setChrBank 0 4096 (r.chr0 &&& 0x1E).toNat).setChrBank 1 4096 ((r.chr0 &&& 0x1E) ||| 1).toNat

/-- `SerialRecompute()` (R237), with the slots and sizes of `V_SERIAL`. R282 says another record of the family would need
its own recompute and the spec gives none: every valid SERIAL record runs this one (DESIGN CHOICE,
notes/assumptions/29.md). -/
def State.serialRecompute (s : State) (r : Serial) : State :=
  ((s.setMirror (serialMirror r.ctl)).serialPrg r).serialChr r

/-- The register a completed sequence writes, by bits 14:13 of the fifth write's address (R100, R236). -/
def serialCommit (param : Addr) (value : BitVec 5) (r : Serial) : Serial :=
  match (param.extractLsb' 13 2).toNat with
  | 0 => { r with ctl := value }
  | 1 => { r with chr0 := value }
  | 2 => { r with chr1 := value }
  | _ => { r with prgreg := value }

/-- The shift value after one more bit (R236). -/
def serialShiftIn (v : Byte) (r : Serial) : BitVec 5 :=
  r.shVal ||| ((BitVec.ofBool (v.getLsbD 0)).setWidth 5 <<< r.shCnt.toNat)

/-- `WR_SHIFT` (R236). -/
def kindWrShift (param : Addr) (v : Byte) (s : State) : State :=
  match s.family with
  | .serial r =>
    if v.getLsbD 7 then
      let r' := { r with shVal := 0, shCnt := 0, ctl := r.ctl ||| Config.shiftResetOr }
      (s.setFamily (.serial r')).serialRecompute r'
    else
      let value := serialShiftIn v r
      if r.shCnt + 1 = 5 then
        let r' := { serialCommit param value r with shVal := 0, shCnt := 0 }
        (s.setFamily (.serial r')).serialRecompute r'
      else s.setFamily (.serial { r with shVal := value, shCnt := r.shCnt + 1 })
  | .none => s
  | .direct => s
  | .indexed _ => s
  | .latch _ => s

/-! ### Indexed (R240 to R242) -/

/-- A target register. -/
def regGet (r : Vector Byte 8) (i : BitVec 3) : Byte := r[i.toNat]'(by have := i.isLt; omega)

def regSet (r : Vector Byte 8) (i : BitVec 3) (v : Byte) : Vector Byte 8 :=
  r.set i.toNat v (by have := i.isLt; omega)

/-- CHR slot `(n + c) mod 8` of `IndexedRecompute()`, `c` = 4 when CINV is set (R242). -/
def indexedChrSlot (sel : Byte) (n : BitVec 3) : Slot :=
  0#2 ++ (if sel.getLsbD 7 then n + 4 else n)

/-- The CHR part of `IndexedRecompute()` (R242). -/
def State.indexedChr (s : State) (r : Indexed) : State :=
  let put (s : State) (n : BitVec 3) (b : Byte) : State :=
    s.setChrBank (indexedChrSlot r.sel n) 1024 b.toNat
  let s := put s 0 (regGet r.r 0 &&& 0xFE)
  let s := put s 1 (regGet r.r 0 ||| 1)
  let s := put s 2 (regGet r.r 1 &&& 0xFE)
  let s := put s 3 (regGet r.r 1 ||| 1)
  let s := put s 4 (regGet r.r 2)
  let s := put s 5 (regGet r.r 3)
  let s := put s 6 (regGet r.r 4)
  put s 7 (regGet r.r 5)

/-- The PRG part of `IndexedRecompute()`, halves swapped by PINV (R242). -/
def State.indexedPrg (s : State) (r : Indexed) : State :=
  let s :=
    if r.sel.getLsbD 6 then (s.setPrgBank 0 8192 (-2)).setPrgBank 2 8192 (regGet r.r 6).toNat
    else (s.setPrgBank 0 8192 (regGet r.r 6).toNat).setPrgBank 2 8192 (-2)
  (s.setPrgBank 1 8192 (regGet r.r 7).toNat).setPrgBank 3 8192 (-1)

/-- `IndexedRecompute()` (R242), with the slots and sizes of `V_INDEXED`. R282 says another record of the family would
need its own recompute and the spec gives none: every valid INDEXED record runs this one (DESIGN CHOICE,
notes/assumptions/29.md). -/
def State.indexedRecompute (s : State) (r : Indexed) : State := (s.indexedChr r).indexedPrg r

/-- `WR_SELECT` (R240). -/
def kindWrSelect (v : Byte) (s : State) : State :=
  match s.family with
  | .indexed r =>
    let r' := { r with sel := v }
    (s.setFamily (.indexed r')).indexedRecompute r'
  | .none => s
  | .direct => s
  | .serial _ => s
  | .latch _ => s

/-- `WR_DATA` (R241). -/
def kindWrData (v : Byte) (s : State) : State :=
  match s.family with
  | .indexed r =>
    let r' := { r with r := regSet r.r (r.sel.extractLsb' 0 3) v }
    (s.setFamily (.indexed r')).indexedRecompute r'
  | .none => s
  | .direct => s
  | .serial _ => s
  | .latch _ => s

/-! ### Direct (R245) -/

/-- `WR_DIRECT`: mask, then normalise (R245). -/
def kindWrDirect (toChr : Bool) (slot : Slot) (log2 mask : Byte) (v : Byte) (s : State) : State :=
  if toChr then s.setChrBank slot (sizeOfLog2 log2) (v &&& mask).toNat
  else s.setPrgBank slot (sizeOfLog2 log2) (v &&& mask).toNat

/-! ### Latch (R250, R251) -/

/-- The latch of a window (R38). -/
def latchOf (r : Latches) (window : Bool) : Latch := if window then r.latch1 else r.latch0

/-- `RD_CHR_LATCHED`: an undefined latch leaves the output (R251); so does an instance without latches,
whose state the kind would read does not exist (R235, notes/assumptions/8.md). -/
def kindRdChrLatched (window : Bool) (slotA : Slot) (log2 : Byte) (slotB : Slot) (param : Addr)
    (out : Byte) (s : State) : State × Byte :=
  match s.family with
  | .latch r =>
    match latchOf r window with
    | .undef => (s, out)
    | .a => kindRdChr slotA log2 param out s
    | .b => kindRdChr slotB log2 param out s
  | .none => (s, out)
  | .direct => (s, out)
  | .serial _ => (s, out)
  | .indexed _ => (s, out)

/-! ### Meanings -/

/-- `RD_CHR_LATCHED` (R251). -/
def execRdChrLatched (c : ReadCall) (window : Bool) (slotA : Slot) (log2 : Byte) (slotB : Slot)
    (s : State) : Result :=
  .next (s.readThrough c.sp (kindRdChrLatched window slotA log2 slotB c.param))

/-- `WR_DIRECT` (R245). -/
def execWrDirect (c : WriteCall) (toChr : Bool) (slot : Slot) (log2 mask : Byte) (s : State) : Result :=
  .next (s.writeThrough c.sp c.v (kindWrDirect toChr slot log2 mask c.v))

/-- `WR_SHIFT` (R236). -/
def execWrShift (c : WriteCall) (s : State) : Result :=
  .next (s.writeThrough c.sp c.v (kindWrShift c.param c.v))

/-- `WR_SELECT` (R240). -/
def execWrSelect (c : WriteCall) (s : State) : Result :=
  .next (s.writeThrough c.sp c.v (kindWrSelect c.v))

/-- `WR_DATA` (R241). -/
def execWrData (c : WriteCall) (s : State) : Result :=
  .next (s.writeThrough c.sp c.v (kindWrData c.v))

end Sys2Proof.Machine
end

