-- ==== Sys2Proof/Machine/Irq.lean ====
section
/-! DEFINITION. The IrqCounters family (spec/43_irq_counters.md): the counter part of `TICK`, the register
writes of the three variants and the CHR kinds that sample A12. A kind invoked in an instance that does not
hold its counter has no effect (R203). -/

namespace Sys2Proof.Machine

/-- `VrcTick()` of whichever VRC variant the instance holds; nothing otherwise (R183, R303). -/
def State.tickIrq (s : State) : State :=
  match s.irq with
  | .vrc8 r => let q := vrc8Tick s.params.vrcBits s.params.scanlineClock r; s.stepIrq (.vrc8 q.1) q.2
  | .vrc16 r => let q := vrc16Tick s.params.vrcBits s.params.scanlineClock r; s.stepIrq (.vrc16 q.1) q.2
  | .mmc3 _ => s
  | .none => s

/-- `A12Sample(addr, now)` (R193). -/
def State.a12Sample (s : State) (addr : Addr) : State :=
  match s.irq with
  | .mmc3 r =>
    if a12Sampled addr then
      let q := a12Step s.params.variant.altIrq (a12Of addr) s.wires.now r
      s.stepIrq (.mmc3 q.1) q.2
    else s
  | .vrc8 _ => s
  | .vrc16 _ => s
  | .none => s

/-! ### VRC register writes -/

/-- `WR_VRC_LATCH` (R180). -/
def kindWrVrcLatch (v : Byte) (s : State) : State :=
  match s.irq with
  | .vrc8 r => s.setIrq (.vrc8 { r with latch := v })
  | .vrc16 r => s.setIrq (.vrc16 { r with latch := setLow r.latch v })
  | .mmc3 _ => s
  | .none => s

/-- `WR_VRC_LATCH_LO` (R181). -/
def kindWrVrcLatchLo (v : Byte) (s : State) : State :=
  match s.irq with
  | .vrc8 r => s.setIrq (.vrc8 { r with latch := v })
  | .vrc16 r => s.setIrq (.vrc16 { r with latch := setLow r.latch v })
  | .mmc3 _ => s
  | .none => s

/-- `WR_VRC_LATCH_HI`: no effect on the 8-bit variant (R181). -/
def kindWrVrcLatchHi (v : Byte) (s : State) : State :=
  match s.irq with
  | .vrc16 r => s.setIrq (.vrc16 { r with latch := setHigh r.latch v })
  | .vrc8 _ => s
  | .mmc3 _ => s
  | .none => s

/-- `WR_VRC_CTRL` (R182). -/
def kindWrVrcCtrl (v : Byte) (s : State) : State :=
  match s.irq with
  | .vrc8 r => s.setIrq (.vrc8 (vrc8SetCtrl s.params.vrcBits v r))
  | .vrc16 r => s.setIrq (.vrc16 (vrc16SetCtrl s.params.vrcBits v r))
  | .mmc3 _ => s
  | .none => s

/-- `WR_VRC_ACK`: the line is cleared before E is rewritten (R186, R328). -/
def kindWrVrcAck (s : State) : State :=
  match s.irq with
  | .vrc8 r => s.irqClear.setIrq (.vrc8 { r with ctrl := ctrlAck s.params.vrcBits r.ctrl })
  | .vrc16 r => s.irqClear.setIrq (.vrc16 { r with ctrl := ctrlAck s.params.vrcBits r.ctrl })
  | .mmc3 _ => s
  | .none => s

/-! ### MMC3 register writes -/

/-- `WR_M3_LATCH` (R198). -/
def kindWrM3Latch (v : Byte) (s : State) : State :=
  match s.irq with
  | .mmc3 r => s.setIrq (.mmc3 { r with latch := v })
  | .vrc8 _ => s
  | .vrc16 _ => s
  | .none => s

/-- `WR_M3_RELOAD` (R198). -/
def kindWrM3Reload (s : State) : State :=
  match s.irq with
  | .mmc3 r => s.setIrq (.mmc3 { r with reloadPending := true })
  | .vrc8 _ => s
  | .vrc16 _ => s
  | .none => s

/-- `WR_M3_DISABLE`: the enable is cleared before the line (R199, R328). -/
def kindWrM3Disable (s : State) : State :=
  match s.irq with
  | .mmc3 r => (s.setIrq (.mmc3 { r with enable := false })).irqClear
  | .vrc8 _ => s
  | .vrc16 _ => s
  | .none => s

/-- `WR_M3_ENABLE` (R199). -/
def kindWrM3Enable (s : State) : State :=
  match s.irq with
  | .mmc3 r => s.setIrq (.mmc3 { r with enable := true })
  | .vrc8 _ => s
  | .vrc16 _ => s
  | .none => s

/-! ### CHR accesses that sample A12 -/

/-- `RD_CHR_A12`: the sample first, then the fetch (R200). -/
def kindRdChrA12 (slot : Slot) (log2 : Byte) (param : Addr) (out : Byte) (s : State) : State × Byte :=
  kindRdChr slot log2 param out (s.a12Sample param)

/-- `WR_CHR_A12` (R201). -/
def kindWrChrA12 (slot : Slot) (log2 : Byte) (param : Addr) (v : Byte) (s : State) : State :=
  kindWrChr slot log2 param v (s.a12Sample param)

/-! ### Meanings -/

/-- `TICK` (R303). -/
def execTick (s : State) : Result := s.whenLive (.next s.tickIrq)

/-- `RD_CHR_A12` (R200). -/
def execRdChrA12 (c : ReadCall) (slot : Slot) (log2 : Byte) (s : State) : Result :=
  .next (s.readThrough c.sp (kindRdChrA12 slot log2 c.param))

/-- `WR_CHR_A12` (R201). -/
def execWrChrA12 (c : WriteCall) (slot : Slot) (log2 : Byte) (s : State) : Result :=
  .next (s.writeThrough c.sp c.v (kindWrChrA12 slot log2 c.param c.v))

/-- `WR_VRC_LATCH` (R180). -/
def execWrVrcLatch (c : WriteCall) (s : State) : Result :=
  .next (s.writeThrough c.sp c.v (kindWrVrcLatch c.v))

/-- `WR_VRC_LATCH_LO` (R181). -/
def execWrVrcLatchLo (c : WriteCall) (s : State) : Result :=
  .next (s.writeThrough c.sp c.v (kindWrVrcLatchLo c.v))

/-- `WR_VRC_LATCH_HI` (R181). -/
def execWrVrcLatchHi (c : WriteCall) (s : State) : Result :=
  .next (s.writeThrough c.sp c.v (kindWrVrcLatchHi c.v))

/-- `WR_VRC_CTRL` (R182). -/
def execWrVrcCtrl (c : WriteCall) (s : State) : Result :=
  .next (s.writeThrough c.sp c.v (kindWrVrcCtrl c.v))

/-- `WR_VRC_ACK` (R186). -/
def execWrVrcAck (c : WriteCall) (s : State) : Result :=
  .next (s.writeThrough c.sp c.v kindWrVrcAck)

/-- `WR_M3_LATCH` (R198). -/
def execWrM3Latch (c : WriteCall) (s : State) : Result :=
  .next (s.writeThrough c.sp c.v (kindWrM3Latch c.v))

/-- `WR_M3_RELOAD` (R198). -/
def execWrM3Reload (c : WriteCall) (s : State) : Result :=
  .next (s.writeThrough c.sp c.v kindWrM3Reload)

/-- `WR_M3_DISABLE` (R199). -/
def execWrM3Disable (c : WriteCall) (s : State) : Result :=
  .next (s.writeThrough c.sp c.v kindWrM3Disable)

/-- `WR_M3_ENABLE` (R199). -/
def execWrM3Enable (c : WriteCall) (s : State) : Result :=
  .next (s.writeThrough c.sp c.v kindWrM3Enable)

end Sys2Proof.Machine
end

