-- ==== Sys2Proof/Machine/Mirror.lean ====
section
/-! DEFINITION. The MirrorModel family (spec/42_mirror.md). -/

namespace Sys2Proof.Machine

/-- `RD_NT_DYN`: the mode is read at every access (R164). -/
def kindRdNtDyn (sp : Space) (param : Addr) (_ : Byte) (s : State) : State × Byte :=
  (s, s.storeByte sp (mirrorAddress param s.mirrorMode).toNat)

/-- `WR_NT_DYN` (R164). -/
def kindWrNtDyn (sp : Space) (param : Addr) (v : Byte) (s : State) : State :=
  s.putStore sp (mirrorAddress param s.mirrorMode).toNat v

/-- `WR_MIRROR`: only style 0 is defined, and a FourScreen Rom keeps its mode (R166). -/
def kindWrMirror (style : Byte) (v : Byte) (s : State) : State :=
  if style = 0 ∧ s.rom.mirroring ≠ .fourScreen then
    if v.getLsbD 0 then s.setMirror .horizontal else s.setMirror .vertical
  else s

/-- Bake a mode into the nametable entries (R162). -/
def State.applyMirror (s : State) (mode : MirrorMode) : State :=
  s.fillEntries .ppu Config.nametableBase Config.nametableCount
    (fun a => ⟨.store, .none, mirrorAddress (BitVec.ofNat 16 a) mode⟩)
    (fun a => ⟨.store, .none, mirrorAddress (BitVec.ofNat 16 a) mode⟩)

/-- Install the nametable entries that look the mode up (R163). -/
def State.applyCtlMirror (s : State) : State :=
  s.fillEntries .ppu Config.nametableBase Config.nametableCount
    (fun a => ⟨.ntDyn, .mapper, BitVec.ofNat 16 a⟩)
    (fun a => ⟨.ntDyn, .mapper, BitVec.ofNat 16 a⟩)

/-- `RD_NT_DYN` (R164). -/
def execRdNtDyn (c : ReadCall) (s : State) : Result :=
  .next (s.readThrough c.sp (kindRdNtDyn c.sp c.param))

/-- `WR_NT_DYN` (R164). -/
def execWrNtDyn (c : WriteCall) (s : State) : Result :=
  .next (s.writeThrough c.sp c.v (kindWrNtDyn c.sp c.param c.v))

/-- `WR_MIRROR` (R166). -/
def execWrMirror (c : WriteCall) (style : Byte) (s : State) : Result :=
  .next (s.writeThrough c.sp c.v (kindWrMirror style c.v))

/-- `MIRRORADDR` (R160): legal in every phase, changes no state but the response. -/
def execMirroraddr (a : Addr) (mode : MirrorMode) (s : State) : Result :=
  .next (s.respond (.word (mirrorAddress a mode)))

/-- `APPLYMIRROR`: legal in every phase (R162). -/
def execApplymirror (mode : MirrorMode) (s : State) : Result := .next (s.applyMirror mode)

/-- `APPLYCTLMIRROR` (R163). -/
def execApplyctlmirror (s : State) : Result := s.whenLive (.next s.applyCtlMirror)

end Sys2Proof.Machine
end

