-- ==== Sys2Proof/Machine/Trampoline.lean ====
section
/-! DEFINITION. The TrampolineChain family (spec/44_trampoline.md): wrapping an entry, and the side effect. -/

namespace Sys2Proof.Machine

/-- A latch state code, 0 `UNDEF`, 1 `A`, 2 `B` (R103). -/
def latchOfCode (code : Byte) : Option Latch :=
  match code.toNat with
  | 0 => some .undef
  | 1 => some .a
  | 2 => some .b
  | _ => none

/-- `chr_latch[w] <- code` (R224); a window or code outside the encoding leaves the latches. -/
def setLatch (r : Latches) (w code : Byte) : Latches :=
  match w.toNat, latchOfCode code with
  | 0, some l => { r with latch0 := l }
  | 1, some l => { r with latch1 := l }
  | _, _ => r

/-- `RunSE`: `SE_LATCH` writes its latch, and has no effect where there are no latches (R224, R225). -/
def State.runSideEffect (s : State) : SideEffect → State
  | .latch w code =>
    match s.family with
    | .latch r => s.setFamily (.latch (setLatch r w code))
    | .none => s
    | .direct => s
    | .serial _ => s
    | .indexed _ => s

/-- Run side effects in order (R227). -/
def State.runSideEffects (s : State) : List SideEffect → State
  | [] => s
  | se :: t => (s.runSideEffect se).runSideEffects t

/-- Append a record (R34). -/
def State.addRecord (s : State) (prev : PrevRef) : State :=
  { s with tramp := s.tramp ++ [⟨prev, .mapper⟩] }

/-- Capture the read half of an entry in a record, then install the trampoline over it (R220). -/
def State.wrapRead (s : State) (sp : Space) (a : Addr) (se : SideEffect) (param : Addr) : State :=
  (s.addRecord (.rd (s.readEntry sp a))).putReadEntry sp a ⟨.tramp se, .tramp s.tramp.length, param⟩

/-- The same on the write half (R221). -/
def State.wrapWrite (s : State) (sp : Space) (a : Addr) (se : SideEffect) (param : Addr) : State :=
  (s.addRecord (.wr (s.writeEntry sp a))).putWriteEntry sp a ⟨.tramp se, .tramp s.tramp.length, param⟩

/-- `WRAPRD` (R220). -/
def execWraprd (sp : Space) (a : Addr) (hd : Kind) (param : Addr) (s : State) : Result :=
  match hd with
  | .read (.tramp se) =>
    if se.wellFormed then s.whenLive (.next (s.wrapRead sp a se param)) else .refused .illFormed
  | _ => .refused .illFormed

/-- `WRAPWR` (R221). -/
def execWrapwr (sp : Space) (a : Addr) (hd : Kind) (param : Addr) (s : State) : Result :=
  match hd with
  | .write (.tramp se) =>
    if se.wellFormed then s.whenLive (.next (s.wrapWrite sp a se param)) else .refused .illFormed
  | _ => .refused .illFormed

/-- `SE_LATCH` (R224). -/
def execSeLatch (window state : Byte) (s : State) : Result :=
  .next (s.runSideEffect (.latch window state))

end Sys2Proof.Machine
end

