-- ==== Sys2Proof/Machine/Handlers.lean ====
section
/-! DEFINITION. Invocation (spec/40_dispatch_bus.md R122 to R125, spec/44_trampoline.md R222, R223): running a
handler kind, forwarding through trampolines, and the commands `RD` and `WR`. -/

namespace Sys2Proof.Machine

/-- `InvokeRd` of a kind that forwards no further (R124). A trampoline kind does not come here from
`dispatchRead`; on its own it leaves the output. -/
def runRead (fn : ReadKind) (sp : Space) (param : Addr) (out : Byte) (s : State) : State × Byte :=
  match fn with
  | .openBus => kindRdOpen out s
  | .external => kindRdExternal out s
  | .store => kindRdStore sp param out s
  | .prg slot n => kindRdPrg slot n param out s
  | .chr slot n => kindRdChr slot n param out s
  | .chrA12 slot n => kindRdChrA12 slot n param out s
  | .chrLatched w slotA n slotB => kindRdChrLatched w slotA n slotB param out s
  | .ntDyn => kindRdNtDyn sp param out s
  | .tramp _ => (s, out)

/-- `InvokeWr` of a kind that forwards no further (R125). -/
def runWrite (fn : WriteKind) (sp : Space) (param : Addr) (v : Byte) (s : State) : State :=
  match fn with
  | .ignore => s
  | .external => s
  | .store => kindWrStore sp param v s
  | .chr slot n => kindWrChr slot n param v s
  | .chrA12 slot n => kindWrChrA12 slot n param v s
  | .ntDyn => kindWrNtDyn sp param v s
  | .direct toChr slot n mask => kindWrDirect toChr slot n mask v s
  | .shift => kindWrShift param v s
  | .select => kindWrSelect v s
  | .data => kindWrData v s
  | .mirror style => kindWrMirror style v s
  | .m3Latch => kindWrM3Latch v s
  | .m3Reload => kindWrM3Reload s
  | .m3Disable => kindWrM3Disable s
  | .m3Enable => kindWrM3Enable s
  | .vrcLatch => kindWrVrcLatch v s
  | .vrcLatchLo => kindWrVrcLatchLo v s
  | .vrcLatchHi => kindWrVrcLatchHi v s
  | .vrcCtrl => kindWrVrcCtrl v s
  | .vrcAck => kindWrVrcAck s
  | .tramp _ => s

/-- A read transaction through a handler reference: the side effects of the trampolines on the way, outermost
first, then the kind forwarded to, in the state they left (R122, R222). -/
def dispatchRead (h : ReadRef) (sp : Space) (s : State) : Result :=
  match resolveRead s.tramp s.tramp.length h with
  | some (ses, fn, param) => .next ((s.runSideEffects ses).readThrough sp (runRead fn sp param))
  | none => .refused .danglingContext

/-- A write transaction through a handler reference (R123, R223). -/
def dispatchWrite (h : WriteRef) (sp : Space) (v : Byte) (s : State) : Result :=
  match resolveWrite s.tramp s.tramp.length h with
  | some (ses, fn, param) =>
    .next (s.writeThrough sp v (fun s => runWrite fn sp param v (s.runSideEffects ses)))
  | none => .refused .danglingContext

/-- `RD` (R122). -/
def execRd (sp : Space) (a : Addr) (s : State) : Result := dispatchRead (s.readEntry sp a) sp s

/-- `WR` (R123). -/
def execWr (sp : Space) (a : Addr) (v : Byte) (s : State) : Result :=
  dispatchWrite (s.writeEntry sp a) sp v s

/-- `RD_TRAMP` (R222). -/
def execRdTramp (c : ReadCall) (k : Nat) (se : SideEffect) (s : State) : Result :=
  dispatchRead ⟨.tramp se, .tramp k, c.param⟩ c.sp s

/-- `WR_TRAMP` (R223). -/
def execWrTramp (c : WriteCall) (k : Nat) (se : SideEffect) (s : State) : Result :=
  dispatchWrite ⟨.tramp se, .tramp k, c.param⟩ c.sp c.v s

end Sys2Proof.Machine
end

