-- ==== Sys2Proof/Machine/Lifecycle.lean ====
section
/-! DEFINITION. The lifecycle commands and hooks (spec/47_host_interface.md R300 to R308). -/

namespace Sys2Proof.Machine

/-! ### Register values shared by `INIT` and `RESET` -/

/-- The IRQ counter state and the family state at the INIT column of R45, and `IrqClear`. -/
def State.resetRegisters (s : State) : State :=
  ((s.setIrq (irqInit s.params.variant.irq)).setFamily (familyInit s.params.variant.family)).irqClear

/-- Every bank register 0. -/
def State.zeroBanks (s : State) : State := { s with prgBank := slotsZero, chrBank := slotsZero }

/-- `SetPrgBank(w.slot, w.size, w.init)`. -/
def State.initPrgWindow (s : State) (w : PrgWindow) : State :=
  s.setPrgBank w.slot w.size w.init.toInt

/-- `SetChrBank(w.slot, w.size, w.init)`; a latched window sets both of its slots (R302). -/
def State.initChrWindow (s : State) (w : ChrWindow) : State :=
  match w.source with
  | .plain slot init => s.setChrBank slot w.size init.toInt
  | .latched _ slotA slotB initA initB =>
    (s.setChrBank slotA w.size initA.toInt).setChrBank slotB w.size initB.toInt

/-- The windows' initial bank registers, in list order (R302 step 2, R304). -/
def State.initWindows (s : State) : State :=
  s.params.variant.chrWindows.foldl State.initChrWindow
    (s.params.variant.prgWindows.foldl State.initPrgWindow s)

/-! ### `INIT` -/

/-- The effect of `INIT` (R300). -/
def State.initWithRom (s : State) : State :=
  let s := s.releaseEntries
  let s := { s with rom := s.wires.rom }
  let s := s.zeroBanks
  let s := { s with mirrorMode := .horizontal }
  let s := s.setMirror s.rom.mirroring
  let s := s.resetRegisters
  let s := s.sanitize
  { s with phase := .loaded }

/-- `INIT`: refused only in phase `DEAD` (R300). -/
def execInit (s : State) : Result :=
  if s.phase = .dead then .refused (.wrongPhase s.phase) else .next s.initWithRom

/-! ### `APPLYMAP` -/

/-- The read entry of a CPU address of `$8000`-`$FFFF` (R302 step 4). -/
def mapCpuRead (v : Variant) (a : Nat) : ReadRef :=
  match v.prgWindows.find? (fun w => decide (w.base ≤ a ∧ a < w.base + w.size)) with
  | some w => ⟨.prg w.slot (log2Field w.size), .mapper, BitVec.ofNat 16 a⟩
  | none => readPowerOn

/-- The write entry of a CPU address of `$8000`-`$FFFF`: the first row that matches (R302 step 4). -/
def mapCpuWrite (v : Variant) (a : Nat) : WriteRef :=
  match v.cpuWrites.find? (fun e => BitVec.ofNat 16 a &&& e.mask == e.pattern) with
  | some e => ⟨e.kind, writeCtx e.kind, BitVec.ofNat 16 a⟩
  | none => writePowerOn

/-- The CHR window covering a PPU address (R302 step 5). -/
def chrWindowAt (v : Variant) (a : Nat) : Option ChrWindow :=
  v.chrWindows.find? (fun w => decide (w.base ≤ a ∧ a < w.base + w.size))

/-- The read entry of a PPU address of `$0000`-`$1FFF` (R302 step 5). -/
def mapPpuRead (v : Variant) (a : Nat) : ReadRef :=
  match chrWindowAt v a with
  | some w =>
    match w.source with
    | .latched win slotA slotB _ _ =>
      ⟨.chrLatched win slotA (log2Field w.size) slotB, .mapper, BitVec.ofNat 16 a⟩
    | .plain slot _ =>
      if v.irq = .mmc3 then ⟨.chrA12 slot (log2Field w.size), .mapper, BitVec.ofNat 16 a⟩
      else ⟨.chr slot (log2Field w.size), .mapper, BitVec.ofNat 16 a⟩
  | none => readPowerOn

/-- The write entry of a PPU address of `$0000`-`$1FFF` (R302 step 5). -/
def mapPpuWrite (v : Variant) (a : Nat) : WriteRef :=
  match chrWindowAt v a with
  | some w =>
    match w.source with
    | .latched _ _ _ _ _ => writePowerOn
    | .plain slot _ =>
      if v.irq = .mmc3 then ⟨.chrA12 slot (log2Field w.size), .mapper, BitVec.ofNat 16 a⟩
      else ⟨.chr slot (log2Field w.size), .mapper, BitVec.ofNat 16 a⟩
  | none => writePowerOn

/-- Cartridge RAM entries, if the variant has RAM (R302 step 3). -/
def State.mapPrgRam (s : State) : State :=
  if 0 < s.params.variant.prgRamSize then
    s.fillEntries .cpu Config.prgRamBase Config.prgRamCount
      (fun a => ⟨.store, .none, BitVec.ofNat 16 a⟩) (fun a => ⟨.store, .none, BitVec.ofNat 16 a⟩)
  else s

/-- The CPU entries of `$8000`-`$FFFF` and the PPU entries of `$0000`-`$1FFF` (R302 steps 4, 5). -/
def State.mapWindows (s : State) : State :=
  let v := s.params.variant
  (s.fillEntries .cpu Config.prgRomBase Config.prgRomCount (mapCpuRead v) (mapCpuWrite v)).fillEntries
    .ppu 0 Config.patternCount (mapPpuRead v) (mapPpuWrite v)

/-- The nametable entries, by the variant's strategy (R302 step 6, R168). -/
def State.mapNametables (s : State) : State :=
  match s.params.variant.mirror with
  | .static => s.applyMirror s.mirrorMode
  | .controllable => s.applyCtlMirror

/-- The trampolines of one row, by rising address (R302 step 7). -/
def State.mapWrap (s : State) (w : Wrap) : State :=
  (List.range' w.addrLo (w.addrHi + 1 - w.addrLo)).foldl
    (fun s a => s.wrapRead w.space (BitVec.ofNat 16 a) w.se (BitVec.ofNat 16 a)) s

/-- The effect of `APPLYMAP` (R302); the initial bank registers are set on the first run only. -/
def State.applyMap (s : State) : State :=
  let s := s.dropTramps
  let s := if s.phase = .loaded then s.initWindows else s
  let s := s.mapPrgRam
  let s := s.mapWindows
  let s := s.mapNametables
  let s := s.params.variant.wraps.foldl State.mapWrap s
  { s with phase := .mapped }

/-- `APPLYMAP` (R302). -/
def execApplymap (s : State) : Result := s.whenLive (.next s.applyMap)

/-! ### `RESET`, the hooks, `TEARDOWN` -/

/-- The effect of `RESET` (R304): slots no window names are 0. -/
def State.resetMapper (s : State) : State :=
  (((s.zeroBanks).initWindows).setMirror s.rom.mirroring).resetRegisters

/-- `RESET` (R304). -/
def execReset (s : State) : Result := s.whenLive (.next s.resetMapper)

/-- `SAVEBATT` (R305). -/
def execSavebatt (s : State) : Result := s.whenLive (.next (s.respond (.flag s.params.hasBattery)))

/-- `EXTAUDIO`: the sample passes unchanged (R306). -/
def execExtaudio (s : State) : Result := s.whenLive (.next (s.respond (.sample s.wires.sample)))

/-- `POSTAUDIO`: the sample passes unchanged, the rate is ignored (R307). -/
def execPostaudio (s : State) : Result := s.whenLive (.next (s.respond (.sample s.wires.sample)))

/-- `TEARDOWN`: legal in every phase (R308). -/
def execTeardown (s : State) : Result :=
  .next { s.releaseEntries.irqClear with phase := .dead }

end Sys2Proof.Machine
end

