-- ==== Sys2Proof/Machine/Dispatch.lean ====
section
/-! DEFINITION. `exec`: one arm per constructor of `Instr`. -/

namespace Sys2Proof.Machine

def exec (i : Instr) (s : State) : Host.Outcome State Fault Refusal :=
  match i with
  | .init => Sys2Proof.Machine.execInit s
  | .applymap => Sys2Proof.Machine.execApplymap s
  | .tick => Sys2Proof.Machine.execTick s
  | .reset => Sys2Proof.Machine.execReset s
  | .savebatt => Sys2Proof.Machine.execSavebatt s
  | .extaudio => Sys2Proof.Machine.execExtaudio s
  | .postaudio => Sys2Proof.Machine.execPostaudio s
  | .teardown => Sys2Proof.Machine.execTeardown s
  | .rd sp a => Sys2Proof.Machine.execRd sp a s
  | .wr sp a v => Sys2Proof.Machine.execWr sp a v s
  | .setrd sp a hd param => Sys2Proof.Machine.execSetrd sp a hd param s
  | .setwr sp a hd param => Sys2Proof.Machine.execSetwr sp a hd param s
  | .wraprd sp a hd param => Sys2Proof.Machine.execWraprd sp a hd param s
  | .wrapwr sp a hd param => Sys2Proof.Machine.execWrapwr sp a hd param s
  | .normbank idx memsize banksize => Sys2Proof.Machine.execNormbank idx memsize banksize s
  | .sanitize => Sys2Proof.Machine.execSanitize s
  | .mirroraddr a mode => Sys2Proof.Machine.execMirroraddr a mode s
  | .applymirror mode => Sys2Proof.Machine.execApplymirror mode s
  | .applyctlmirror => Sys2Proof.Machine.execApplyctlmirror s
  | .rdOpen c => Sys2Proof.Machine.execRdOpen c s
  | .rdExternal c => Sys2Proof.Machine.execRdExternal c s
  | .rdStore c => Sys2Proof.Machine.execRdStore c s
  | .rdPrg c slot log2 => Sys2Proof.Machine.execRdPrg c slot log2 s
  | .rdChr c slot log2 => Sys2Proof.Machine.execRdChr c slot log2 s
  | .rdChrA12 c slot log2 => Sys2Proof.Machine.execRdChrA12 c slot log2 s
  | .rdChrLatched c window slotA log2 slotB => Sys2Proof.Machine.execRdChrLatched c window slotA log2 slotB s
  | .rdNtDyn c => Sys2Proof.Machine.execRdNtDyn c s
  | .rdTramp c k se => Sys2Proof.Machine.execRdTramp c k se s
  | .wrIgnore c => Sys2Proof.Machine.execWrIgnore c s
  | .wrExternal c => Sys2Proof.Machine.execWrExternal c s
  | .wrStore c => Sys2Proof.Machine.execWrStore c s
  | .wrChr c slot log2 => Sys2Proof.Machine.execWrChr c slot log2 s
  | .wrChrA12 c slot log2 => Sys2Proof.Machine.execWrChrA12 c slot log2 s
  | .wrNtDyn c => Sys2Proof.Machine.execWrNtDyn c s
  | .wrDirect c toChr slot log2 mask => Sys2Proof.Machine.execWrDirect c toChr slot log2 mask s
  | .wrShift c => Sys2Proof.Machine.execWrShift c s
  | .wrSelect c => Sys2Proof.Machine.execWrSelect c s
  | .wrData c => Sys2Proof.Machine.execWrData c s
  | .wrMirror c style => Sys2Proof.Machine.execWrMirror c style s
  | .wrM3Latch c => Sys2Proof.Machine.execWrM3Latch c s
  | .wrM3Reload c => Sys2Proof.Machine.execWrM3Reload c s
  | .wrM3Disable c => Sys2Proof.Machine.execWrM3Disable c s
  | .wrM3Enable c => Sys2Proof.Machine.execWrM3Enable c s
  | .wrVrcLatch c => Sys2Proof.Machine.execWrVrcLatch c s
  | .wrVrcLatchLo c => Sys2Proof.Machine.execWrVrcLatchLo c s
  | .wrVrcLatchHi c => Sys2Proof.Machine.execWrVrcLatchHi c s
  | .wrVrcCtrl c => Sys2Proof.Machine.execWrVrcCtrl c s
  | .wrVrcAck c => Sys2Proof.Machine.execWrVrcAck c s
  | .wrTramp c k se => Sys2Proof.Machine.execWrTramp c k se s
  | .seLatch window state => Sys2Proof.Machine.execSeLatch window state s

end Sys2Proof.Machine
end

