-- ==== Sys2Proof/Machine/Fetch.lean ====
section
/-! DEFINITION. Taking the next command from the command port (spec/00_scope.md R9, spec/30_encoding.md R90,
R105), and placing an instruction where the next step takes it. -/

namespace Sys2Proof.Machine

/-- What the command port offers. -/
inductive Fetched where
  /-- No command is issued: the block does nothing of its own (R42). -/
  | idle
  /-- The command is refused before it runs. -/
  | stop (r : Refusal)
  /-- The command `i` runs in the state `s`. -/
  | run (i : Instr) (s : State)

/-- The state a command runs in: it has left the port, its wired inputs are present, and the outputs of the
command before it are gone (R9, R46). -/
def State.accept (s : State) (e : Issue) (rest : List Issue) : State :=
  { s with port := rest, wires := e.wires, resp := none, calls := [] }

/-- Take the oldest issued command. -/
def fetch (s : State) : Fetched :=
  match s.port with
  | [] => .idle
  | e :: rest =>
    if variantValid s.params.variant then
      if e.wires.now < s.wires.now then .stop .clockDecreased
      else
        match decodeCommand e.word with
        | .ok i => if i.wellFormed then .run i (s.accept e rest) else .stop .illFormed
        | .error why => .stop (.invalidCommand why)
    else .stop .notAVariant

/-- Issue a command word before all others, with the wired inputs as they stand. -/
def State.issueFirst (s : State) (w : BitVec 88) : State :=
  { s with port := ⟨w, s.wires⟩ :: s.port }

/-- Place an instruction where the next step takes it. A host command's word goes to the command port. A
handler kind is fetched from a dispatch-table entry (R124, R125): the entry of its `param` gets it, with the
context of the kind, and the port gets the `RD` or `WR` that dispatches to it. A trampoline kind also gets a
record of the entry it replaces (R220, R221), and `SE_LATCH` the trampoline it is the side effect of. -/
def State.placeInstr (s : State) (i : Instr) : State :=
  match readPartsOf i, writePartsOf i, i with
  | some (c, _, .tramp se), _, _ =>
    (s.wrapRead c.sp c.param se c.param).issueFirst (BitVec.ofNat 88 (encode (.rd c.sp c.param)).bits)
  | some (c, _, fn), _, _ =>
    (s.putReadEntry c.sp c.param ⟨fn, readCtx fn, c.param⟩).issueFirst
      (BitVec.ofNat 88 (encode (.rd c.sp c.param)).bits)
  | none, some (c, _, .tramp se), _ =>
    (s.wrapWrite c.sp c.param se c.param).issueFirst (BitVec.ofNat 88 (encode (.wr c.sp c.param c.v)).bits)
  | none, some (c, _, fn), _ =>
    (s.putWriteEntry c.sp c.param ⟨fn, writeCtx fn, c.param⟩).issueFirst
      (BitVec.ofNat 88 (encode (.wr c.sp c.param c.v)).bits)
  | none, none, .seLatch w st =>
    (s.wrapRead .cpu 0 (.latch w st) 0).issueFirst (BitVec.ofNat 88 (encode (.rd .cpu 0)).bits)
  | none, none, i => s.issueFirst (BitVec.ofNat 88 (encode i).bits)

/-- Place the instruction of a table word: a command word as it is, any other by its instruction; a word that
decodes to none is placed as a command word of a reserved operation, which the next step refuses. -/
def State.placeWord (s : State) (nbits w : Nat) : State :=
  if 64 < nbits then s.issueFirst (BitVec.ofNat 88 w)
  else
    match decodeTableWord nbits w with
    | some i => s.placeInstr i
    | none => s.issueFirst 0

end Sys2Proof.Machine
end

