-- ==== Sys2Proof/Safety.lean ====
section
/-! DEFINITION. What statements about the block are made in terms of: the invariants a safe run keeps
(spec/10_state.md R27, spec/40_dispatch_bus.md R133, spec/44_trampoline.md R226, R228), which instructions may
write which piece of state (R21 to R40), the bytes an instruction stores to, the register values a recompute or a
reset asks for, the phase table (R309), the malformed command words (R105) and runs of commands. -/

namespace Sys2Proof.Machine

/-! ### Canonical data -/

/-- Every byte memory is in canonical form and inside its extent (R23, R39). -/
def State.memoriesWf (s : State) : Prop :=
  (∀ sp, Memory.wf (spaceSize sp) (s.bus sp).store) ∧ Memory.wf Config.chrRamSize s.chrRam

/-- Every table half is in canonical form and inside its space (R21). -/
def State.tablesWf (s : State) : Prop :=
  ∀ sp, tableWf readPowerOn (spaceSize sp) (s.bus sp).rd
    ∧ tableWf writePowerOn (spaceSize sp) (s.bus sp).wr

/-! ### Handler references -/

/-- The record index of a trampoline context; no other context has one. -/
def ctxIndex : Ctx → Nat
  | .tramp k => k
  | .mapper => 0
  | .none => 0

/-- A read reference whose context follows from its kind (R22), a trampoline naming an existing read record
below `n` (R226, R228). -/
def readRefOk (recs : List TrampRecord) (n : Nat) (h : ReadRef) : Prop :=
  (h.fn.isTramp = false → h.ctx = readCtx h.fn)
  ∧ (h.fn.isTramp = true → ∃ k p o, h.ctx = .tramp k ∧ k < n ∧ recs[k]? = some ⟨.rd p, o⟩)

/-- The same for a write reference. -/
def writeRefOk (recs : List TrampRecord) (n : Nat) (h : WriteRef) : Prop :=
  (h.fn.isTramp = false → h.ctx = writeCtx h.fn)
  ∧ (h.fn.isTramp = true → ∃ k p o, h.ctx = .tramp k ∧ k < n ∧ recs[k]? = some ⟨.wr p, o⟩)

def prevRefOk (recs : List TrampRecord) (n : Nat) : PrevRef → Prop
  | .rd h => readRefOk recs n h
  | .wr h => writeRefOk recs n h

/-- Every entry of both tables names an existing record, and every record refers only to older ones
(R226, R228). -/
def State.trampsOk (s : State) : Prop :=
  (∀ sp, (∀ e ∈ (s.bus sp).rd, readRefOk s.tramp s.tramp.length e.2)
    ∧ (∀ e ∈ (s.bus sp).wr, writeRefOk s.tramp s.tramp.length e.2))
  ∧ ∀ k r, s.tramp[k]? = some r → prevRefOk s.tramp k r.prev

def prevKindWf : PrevRef → Bool
  | .rd h => h.fn.wellFormed
  | .wr h => h.fn.wellFormed

/-- Every installed or captured kind has legal fields (R92, R105). -/
def State.kindsWf (s : State) : Prop :=
  (∀ sp, (∀ e ∈ (s.bus sp).rd, e.2.fn.wellFormed = true) ∧ (∀ e ∈ (s.bus sp).wr, e.2.fn.wellFormed = true))
  ∧ ∀ r ∈ s.tramp, prevKindWf r.prev = true

/-- In phases `EMPTY` and `DEAD` no entry refers to the mapper (R133, R360). -/
def State.lifetimeOk (s : State) : Prop :=
  s.live = false →
    ∀ sp, (∀ e ∈ (s.bus sp).rd, e.2.ctx = .none) ∧ (∀ e ∈ (s.bus sp).wr, e.2.ctx = .none)

/-! ### Registers -/

/-- A stored index is 0, or below the number of banks of a size a slot can be normalised with: 1 KB to 32 KB, or the
record's sanitize size `san` (R27, R92, R143). -/
def slotInRange (san total : Nat) (b : Byte) : Prop :=
  b = 0 ∨ ∃ size, (size = san ∨ ∃ n, 10 ≤ n ∧ n ≤ 15 ∧ size = 2 ^ n) ∧ b.toNat < total / size

/-- The invariant of the bank register file (R27). -/
def State.banksOk (s : State) : Prop :=
  ∀ slot, slotInRange s.params.variant.prgSanSize s.prgSize (slotGet s.prgBank slot)
    ∧ slotInRange s.params.variant.chrSanSize s.chrMemSize (slotGet s.chrBank slot)

def irqNameOf : IrqState → IrqName
  | .none => .none
  | .vrc8 _ => .vrc8
  | .vrc16 _ => .vrc16
  | .mmc3 _ => .mmc3

def familyNameOf : FamilyState → FamilyName
  | .none => .none
  | .direct => .direct
  | .serial _ => .serial
  | .indexed _ => .indexed
  | .latch _ => .latch

/-- The instance holds exactly the counter and the family its variant names (R20). -/
def State.registersMatch (s : State) : Prop :=
  irqNameOf s.irq = s.params.variant.irq ∧ familyNameOf s.family = s.params.variant.family

/-- `sh_cnt` is 0 to 4 (R35). -/
def State.shiftCountOk (s : State) : Prop := ∀ r, s.family = .serial r → r.shCnt.toNat ≤ 4

/-- `vrc_prescaler` is 1 to 341 between commands (R183). -/
def State.prescalerOk (s : State) : Prop :=
  (∀ r, s.irq = .vrc8 r → 1 ≤ r.prescaler.toInt ∧ r.prescaler.toInt ≤ 341)
  ∧ ∀ r, s.irq = .vrc16 r → 1 ≤ r.prescaler.toInt ∧ r.prescaler.toInt ≤ 341

/-- Without a counter the line is down (R323). -/
def State.lineOk (s : State) : Prop := s.irq = .none → s.irqOut = false

/-- The whole invariant of a safe run. -/
def State.safe (s : State) : Prop :=
  s.memoriesWf ∧ s.tablesWf ∧ s.trampsOk ∧ s.kindsWf ∧ s.lifetimeOk ∧ s.banksOk ∧ s.registersMatch
    ∧ s.shiftCountOk ∧ s.prescalerOk ∧ s.lineOk

/-! ### Which instructions may write what -/

/-- Dispatch tables and the record list (R21, R34). -/
def mayWriteTables : Instr → Bool
  | .setrd _ _ _ _ => true
  | .setwr _ _ _ _ => true
  | .wraprd _ _ _ _ => true
  | .wrapwr _ _ _ _ => true
  | .applymirror _ => true
  | .applyctlmirror => true
  | .applymap => true
  | .init => true
  | .teardown => true
  | _ => false

/-- Byte stores (R23). -/
def mayWriteStores : Instr → Bool
  | .wr _ _ _ => true
  | .wrStore _ => true
  | .wrNtDyn _ => true
  | .wrTramp _ _ _ => true
  | _ => false

/-- CHR-RAM (R39, R148, R201). -/
def mayWriteChrRam : Instr → Bool
  | .wr _ _ _ => true
  | .wrChr _ _ _ => true
  | .wrChrA12 _ _ _ => true
  | .wrTramp _ _ _ => true
  | _ => false

/-- The bus an access runs on; `none` for an instruction that is no bus access. Only an access writes a
last-bus-value register (R24). -/
def accessSpace : Instr → Option Space
  | .rd sp _ => some sp
  | .wr sp _ _ => some sp
  | i =>
    match readPartsOf i, writePartsOf i with
    | some r, _ => some r.1.sp
    | none, some w => some w.1.sp
    | none, none => none

/-- The bank register file (R26). -/
def mayWriteBanks : Instr → Bool
  | .init => true
  | .applymap => true
  | .reset => true
  | .sanitize => true
  | .wr _ _ _ => true
  | .wrDirect _ _ _ _ _ => true
  | .wrShift _ => true
  | .wrSelect _ => true
  | .wrData _ => true
  | .wrTramp _ _ _ => true
  | _ => false

/-- The mirror mode (R28). -/
def mayWriteMirror : Instr → Bool
  | .init => true
  | .reset => true
  | .wr _ _ _ => true
  | .wrMirror _ _ => true
  | .wrShift _ => true
  | .wrTramp _ _ _ => true
  | _ => false

/-- The IRQ counter state (R29 to R32). -/
def mayWriteIrq : Instr → Bool
  | .init => true
  | .reset => true
  | .tick => true
  | .rd _ _ => true
  | .rdChrA12 _ _ _ => true
  | .rdTramp _ _ _ => true
  | .wr _ _ _ => true
  | .wrChrA12 _ _ _ => true
  | .wrM3Latch _ => true
  | .wrM3Reload _ => true
  | .wrM3Disable _ => true
  | .wrM3Enable _ => true
  | .wrVrcLatch _ => true
  | .wrVrcLatchLo _ => true
  | .wrVrcLatchHi _ => true
  | .wrVrcCtrl _ => true
  | .wrVrcAck _ => true
  | .wrTramp _ _ _ => true
  | _ => false

/-- The line and the calls on the sink (R33, R325, R326). -/
def mayWriteLine : Instr → Bool
  | .init => true
  | .reset => true
  | .teardown => true
  | .tick => true
  | .rd _ _ => true
  | .rdChrA12 _ _ _ => true
  | .rdTramp _ _ _ => true
  | .wr _ _ _ => true
  | .wrChrA12 _ _ _ => true
  | .wrM3Disable _ => true
  | .wrVrcAck _ => true
  | .wrTramp _ _ _ => true
  | _ => false

/-- The family state (R35 to R38). -/
def mayWriteFamily : Instr → Bool
  | .init => true
  | .reset => true
  | .rd _ _ => true
  | .rdTramp _ _ _ => true
  | .wr _ _ _ => true
  | .wrShift _ => true
  | .wrSelect _ => true
  | .wrData _ => true
  | .wrTramp _ _ _ => true
  | .seLatch _ _ => true
  | _ => false

/-- The phase (R40). -/
def mayWritePhase : Instr → Bool
  | .init => true
  | .applymap => true
  | .teardown => true
  | _ => false

/-- The enable of whichever counter the instance holds (R327). -/
def State.irqEnabled (s : State) : Bool :=
  match s.irq with
  | .vrc8 r => ctrlE s.params.vrcBits r.ctrl
  | .vrc16 r => ctrlE s.params.vrcBits r.ctrl
  | .mmc3 r => r.enable
  | .none => false

/-- The instructions that answer something (R90, R91); a read kind answers the byte of its `RD`. -/
def mayRespond : Instr → Bool
  | .rd _ _ => true
  | .savebatt => true
  | .extaudio => true
  | .postaudio => true
  | .normbank _ _ _ => true
  | .mirroraddr _ _ => true
  | i => (readPartsOf i).isSome

/-- The response carries the byte `v` in `resp[7:0]` (R90, R91). -/
def answersByte (resp : Option Response) (v : Byte) : Prop :=
  ∃ w, resp = some (.value w) ∧ w.extractLsb' 0 8 = v

/-- The response carries the flag `b` in `resp[0]` (R90, R91). -/
def answersFlag (resp : Option Response) (b : Bool) : Prop :=
  ∃ w, resp = some (.value w) ∧ w.getLsbD 0 = b

/-- The instructions that may take a draw (R127). -/
def mayDraw : Instr → Bool
  | .rd _ _ => true
  | .rdExternal _ => true
  | .rdTramp _ _ _ => true
  | _ => false

/-- Everything but the dispatch tables and the record list is the same in `t` as in `s`. -/
def State.sameOutsideTables (s t : State) : Prop :=
  { t with
    cpu := { t.cpu with rd := s.cpu.rd, wr := s.cpu.wr }
    ppu := { t.ppu with rd := s.ppu.rd, wr := s.ppu.wr }
    tramp := s.tramp } = s

/-! ### What an instruction reaches -/

/-- The read kind a read runs in the end, with its bus and `param`: through the trampolines for `RD` and `RD_TRAMP`
(R122, R222), the instruction's own otherwise. -/
def readReached (s : State) : Instr → Option (Space × ReadKind × Addr)
  | .rd sp a =>
    (resolveRead s.tramp s.tramp.length (s.readEntry sp a)).map (fun r => (sp, r.2))
  | .rdTramp c k se =>
    (resolveRead s.tramp s.tramp.length ⟨.tramp se, .tramp k, c.param⟩).map (fun r => (c.sp, r.2))
  | i => (readPartsOf i).map (fun r => (r.1.sp, r.2.2, r.1.param))

/-- The write kind a write runs in the end, with its bus and `param`: through the trampolines for `WR` and
`WR_TRAMP` (R123, R223), the instruction's own otherwise. -/
def writeReached (s : State) : Instr → Option (Space × WriteKind × Addr)
  | .wr sp a _ =>
    (resolveWrite s.tramp s.tramp.length (s.writeEntry sp a)).map (fun r => (sp, r.2))
  | .wrTramp c k se =>
    (resolveWrite s.tramp s.tramp.length ⟨.tramp se, .tramp k, c.param⟩).map (fun r => (c.sp, r.2))
  | i => (writePartsOf i).map (fun w => (w.1.sp, w.2.2, w.1.param))

/-- An access samples A12: it reaches one of the two CHR kinds that do (R200, R201). -/
def samplesA12 (s : State) (i : Instr) : Prop :=
  ∃ sp slot log2 param, readReached s i = some (sp, .chrA12 slot log2, param)
    ∨ writeReached s i = some (sp, .chrA12 slot log2, param)

/-- The byte of a byte store an instruction stores to, if it stores to one (R131, R164). -/
def storeTarget (s : State) (i : Instr) : Option (Space × Nat) :=
  match writeReached s i with
  | some (sp, .store, param) => if param.toNat < spaceSize sp then some (sp, param.toNat) else none
  | some (sp, .ntDyn, param) => some (sp, (mirrorAddress param s.mirrorMode).toNat)
  | _ => none

/-- The byte of CHR-RAM an access of a window stores to: none while there is CHR ROM (R148). -/
def chrRamIndex (s : State) (slot : Slot) (log2 : Byte) (param : Addr) : Option Nat :=
  let index := windowIndex (slotGet s.chrBank slot) log2 param
  if s.chrSize = 0 ∧ index < Config.chrRamSize then some index else none

/-- The byte of CHR-RAM an instruction stores to, if it stores to one (R148, R201). -/
def chrRamTarget (s : State) (i : Instr) : Option Nat :=
  match writeReached s i with
  | some (_, .chr slot log2, param) => chrRamIndex s slot log2 param
  | some (_, .chrA12 slot log2, param) => chrRamIndex s slot log2 param
  | _ => none

/-! ### What a read or a recompute asks for -/

/-- `v` is what a CHR window access on bus `sp` reads: the byte of the backing memory, or the last bus value past
its end (R71, R147). -/
def chrWindowReads (s : State) (sp : Space) (slot : Slot) (log2 : Byte) (param : Addr) (v : Byte) : Prop :=
  let index := (slotGet s.chrBank slot).toNat * 2 ^ log2.toNat + param.toNat % 2 ^ log2.toNat
  (s.chrMemSize ≤ index → v = (s.bus sp).last)
  ∧ (index < s.chrMemSize → 0 < s.chrSize → runsAt s.rom.chr index = some v)
  ∧ (index < s.chrMemSize → s.chrSize = 0 → v = s.chrRamByte index)

/-- The mirror modes of `ctl[1:0]`, in order (R36). -/
def serialMirrorTable : List MirrorMode := [.oneScreenA, .oneScreenB, .vertical, .horizontal]

/-- The 16 KB banks `SerialRecompute` asks for in PRG slots 0 and 1 (R237). -/
def serialPrgWanted (r : Serial) : Int × Int :=
  let p := r.prgreg.toNat % 16
  if r.ctl.toNat / 4 % 4 = 2 then (0, p)
  else if r.ctl.toNat / 4 % 4 = 3 then (p, -1)
  else (2 * (p / 2), 2 * (p / 2) + 1)

/-- The 4 KB banks `SerialRecompute` asks for in CHR slots 0 and 1 (R237). -/
def serialChrWanted (r : Serial) : Int × Int :=
  if r.ctl.toNat / 16 = 1 then (r.chr0.toNat, r.chr1.toNat)
  else (2 * (r.chr0.toNat / 2), 2 * (r.chr0.toNat / 2) + 1)

/-- `t` has the mirror mode and the banks `SerialRecompute` gives for `r`; every other slot is as in `s`
(R237, in every record of family SERIAL by notes/assumptions/29.md). -/
def serialRecomputed (s t : State) (r : Serial) : Prop :=
  serialMirrorTable[r.ctl.toNat % 4]? = some t.mirrorMode
  ∧ (∀ slot, slotGet t.prgBank slot
      = if slot = 0 then normalizeBank (serialPrgWanted r).1 s.prgSize 16384
        else if slot = 1 then normalizeBank (serialPrgWanted r).2 s.prgSize 16384
        else slotGet s.prgBank slot)
  ∧ ∀ slot, slotGet t.chrBank slot
      = if slot = 0 then normalizeBank (serialChrWanted r).1 s.chrMemSize 4096
        else if slot = 1 then normalizeBank (serialChrWanted r).2 s.chrMemSize 4096
        else slotGet s.chrBank slot

/-- The 1 KB bank `IndexedRecompute` asks for in position `n` of the CHR windows, before `CINV` (R242). -/
def indexedChrWanted (r : Indexed) (n : Nat) : Nat :=
  match n with
  | 0 => 2 * ((regGet r.r 0).toNat / 2)
  | 1 => 2 * ((regGet r.r 0).toNat / 2) + 1
  | 2 => 2 * ((regGet r.r 1).toNat / 2)
  | 3 => 2 * ((regGet r.r 1).toNat / 2) + 1
  | 4 => (regGet r.r 2).toNat
  | 5 => (regGet r.r 3).toNat
  | 6 => (regGet r.r 4).toNat
  | _ => (regGet r.r 5).toNat

/-- The 8 KB bank `IndexedRecompute` asks for in PRG slot `n` (R242). -/
def indexedPrgWanted (r : Indexed) (n : Nat) : Int :=
  match n, r.sel.getLsbD 6 with
  | 0, false => (regGet r.r 6).toNat
  | 0, true => -2
  | 1, _ => (regGet r.r 7).toNat
  | 2, false => -2
  | 2, true => (regGet r.r 6).toNat
  | _, _ => -1

/-- `t` has the banks `IndexedRecompute` gives for `r`: `CINV` moves every position by four; every other slot is
as in `s` (R242, in every record of family INDEXED by notes/assumptions/29.md). -/
def indexedRecomputed (s t : State) (r : Indexed) : Prop :=
  (∀ slot : Slot, slotGet t.chrBank slot
      = if slot.toNat < 8 then
          normalizeBank (indexedChrWanted r (if r.sel.getLsbD 7 then (slot.toNat + 4) % 8 else slot.toNat))
            s.chrMemSize 1024
        else slotGet s.chrBank slot)
  ∧ ∀ slot : Slot, slotGet t.prgBank slot
      = if slot.toNat < 4 then normalizeBank (indexedPrgWanted r slot.toNat) s.prgSize 8192
        else slotGet s.prgBank slot

/-- One bank register a record initialises: its slot, the window's size, the requested index (R302, R304). -/
structure SlotInit where
  slot : Slot
  size : Nat
  init : BitVec 16

def prgInits (v : Variant) : List SlotInit := v.prgWindows.map (fun w => ⟨w.slot, w.size, w.init⟩)

/-- A latched window initialises both of its slots (R302). -/
def chrInits (v : Variant) : List SlotInit :=
  v.chrWindows.flatMap (fun w =>
    match w.source with
    | .plain slot init => [⟨slot, w.size, init⟩]
    | .latched _ slotA slotB initA initB => [⟨slotA, w.size, initA⟩, ⟨slotB, w.size, initB⟩])

/-- The value a list of initialisations leaves in a slot that held `old`: the last one that names it decides. -/
def initialised (l : List SlotInit) (mem : Nat) (slot : Slot) (old : Byte) : Byte :=
  match l.reverse.find? (fun e => e.slot == slot) with
  | some e => normalizeBank e.init.toInt mem e.size
  | none => old

/-! ### The entries a record asks for (R302) -/

/-- The read half of an entry as step 1 leaves it: a trampoline gives way to the power-on entry. -/
def keptRead (s : State) (sp : Space) (a : Addr) : ReadRef :=
  if ctxIsTramp (s.readEntry sp a).ctx then ⟨.openBus, .none, 0⟩ else s.readEntry sp a

/-- The write half of an entry as step 1 leaves it. -/
def keptWrite (s : State) (sp : Space) (a : Addr) : WriteRef :=
  if ctxIsTramp (s.writeEntry sp a).ctx then ⟨.ignore, .none, 0⟩ else s.writeEntry sp a

/-- The read half `APPLYMAP` gives a CPU address before step 7: the PRG window that covers it, `RD_OPEN` where none
does, cartridge RAM, or what was there (R302 steps 1, 3, 4). -/
def mappedCpuRead (s : State) (a : Addr) (h : ReadRef) : Prop :=
  let v := s.params.variant
  (∀ w ∈ v.prgWindows, w.base ≤ a.toNat → a.toNat < w.base + w.size →
    ∃ n : Byte, w.size = 2 ^ n.toNat ∧ h = ⟨.prg w.slot n, .mapper, a⟩)
  ∧ (0x8000 ≤ a.toNat → (∀ w ∈ v.prgWindows, a.toNat < w.base ∨ w.base + w.size ≤ a.toNat) →
    h = ⟨.openBus, .none, 0⟩)
  ∧ (0x6000 ≤ a.toNat → a.toNat < 0x8000 → 0 < v.prgRamSize → h = ⟨.store, .none, a⟩)
  ∧ (a.toNat < 0x6000 ∨ a.toNat < 0x8000 ∧ v.prgRamSize = 0 → h = keptRead s .cpu a)

/-- The write half `APPLYMAP` gives a CPU address: the kind of the first register row that matches, `NONE` the context
of the three kinds of the bus and `MAPPER` that of every other, or `WR_IGNORE` where none matches, cartridge RAM, or
what was there (R302 steps 1, 3, 4). -/
def mappedCpuWrite (s : State) (a : Addr) (h : WriteRef) : Prop :=
  let v := s.params.variant
  (0x8000 ≤ a.toNat → ∀ pre e post, v.cpuWrites = pre ++ e :: post → a &&& e.mask = e.pattern →
    (∀ x ∈ pre, a &&& x.mask ≠ x.pattern) →
    h = ⟨e.kind, if e.kind = .ignore ∨ e.kind = .external ∨ e.kind = .store then .none else .mapper, a⟩)
  ∧ (0x8000 ≤ a.toNat → (∀ x ∈ v.cpuWrites, a &&& x.mask ≠ x.pattern) → h = ⟨.ignore, .none, 0⟩)
  ∧ (0x6000 ≤ a.toNat → a.toNat < 0x8000 → 0 < v.prgRamSize → h = ⟨.store, .none, a⟩)
  ∧ (a.toNat < 0x6000 ∨ a.toNat < 0x8000 ∧ v.prgRamSize = 0 → h = keptWrite s .cpu a)

/-- The read half `APPLYMAP` gives a PPU address before step 7: the CHR window that covers it, plain, plain with A12
sampling where the counter is the MMC3's, or latched; `RD_OPEN` where none does; a nametable entry by the mirror
strategy; or what was there (R302 steps 1, 5, 6). -/
def mappedPpuRead (s : State) (a : Addr) (h : ReadRef) : Prop :=
  let v := s.params.variant
  (∀ w ∈ v.chrWindows, w.base ≤ a.toNat → a.toNat < w.base + w.size →
    ∃ n : Byte, w.size = 2 ^ n.toNat
      ∧ (∀ slot init, w.source = .plain slot init → v.irq ≠ .mmc3 → h = ⟨.chr slot n, .mapper, a⟩)
      ∧ (∀ slot init, w.source = .plain slot init → v.irq = .mmc3 → h = ⟨.chrA12 slot n, .mapper, a⟩)
      ∧ ∀ win slotA slotB initA initB, w.source = .latched win slotA slotB initA initB →
        h = ⟨.chrLatched win slotA n slotB, .mapper, a⟩)
  ∧ (a.toNat < 0x2000 → (∀ w ∈ v.chrWindows, a.toNat < w.base ∨ w.base + w.size ≤ a.toNat) →
    h = ⟨.openBus, .none, 0⟩)
  ∧ (0x2000 ≤ a.toNat → a.toNat < 0x3F00 →
    (v.mirror = .static → h = ⟨.store, .none, mirrorAddress a s.mirrorMode⟩)
    ∧ (v.mirror = .controllable → h = ⟨.ntDyn, .mapper, a⟩))
  ∧ (0x3F00 ≤ a.toNat → h = keptRead s .ppu a)

/-- The write half `APPLYMAP` gives a PPU address: as the read half, a latched window taking no write (R302 steps 1, 5,
6). -/
def mappedPpuWrite (s : State) (a : Addr) (h : WriteRef) : Prop :=
  let v := s.params.variant
  (∀ w ∈ v.chrWindows, w.base ≤ a.toNat → a.toNat < w.base + w.size →
    ∃ n : Byte, w.size = 2 ^ n.toNat
      ∧ (∀ slot init, w.source = .plain slot init → v.irq ≠ .mmc3 → h = ⟨.chr slot n, .mapper, a⟩)
      ∧ (∀ slot init, w.source = .plain slot init → v.irq = .mmc3 → h = ⟨.chrA12 slot n, .mapper, a⟩)
      ∧ ∀ win slotA slotB initA initB, w.source = .latched win slotA slotB initA initB →
        h = ⟨.ignore, .none, 0⟩)
  ∧ (a.toNat < 0x2000 → (∀ w ∈ v.chrWindows, a.toNat < w.base ∨ w.base + w.size ≤ a.toNat) →
    h = ⟨.ignore, .none, 0⟩)
  ∧ (0x2000 ≤ a.toNat → a.toNat < 0x3F00 →
    (v.mirror = .static → h = ⟨.store, .none, mirrorAddress a s.mirrorMode⟩)
    ∧ (v.mirror = .controllable → h = ⟨.ntDyn, .mapper, a⟩))
  ∧ (0x3F00 ≤ a.toNat → h = keptWrite s .ppu a)

/-- The read half `APPLYMAP` gives an address of a space before step 7. -/
def mappedRead (s : State) : Space → Addr → ReadRef → Prop
  | .cpu => mappedCpuRead s
  | .ppu => mappedPpuRead s

/-- The number of addresses of a trampoline row (R302 step 7). -/
def wrapLength (w : Wrap) : Nat := w.addrHi + 1 - w.addrLo

/-- The index of the record that row `w`, after the rows `pre`, makes at address `a`: rows in list order, addresses
rising (R302 step 7, R34). -/
def wrapIndex (pre : List Wrap) (w : Wrap) (a : Nat) : Nat := (pre.map wrapLength).sum + (a - w.addrLo)

/-- A trampoline row covers an address of a space (R302 step 7). -/
def wrapCovers (sp : Space) (a : Nat) (w : Wrap) : Bool :=
  decide (w.space = sp) && decide (w.addrLo ≤ a) && decide (a ≤ w.addrHi)

/-! ### Legality by phase (R309) -/

/-- `yes` or `no` of the table of R309: an install of a kind of context `MAPPER` counts as one that needs a live
mapper; handler kinds are no commands and no phase shuts them out. -/
def legalIn (p : Phase) : Instr → Bool
  | .init => decide (p ≠ .dead)
  | .applymap => decide (p = .loaded ∨ p = .mapped)
  | .tick => decide (p = .loaded ∨ p = .mapped)
  | .reset => decide (p = .loaded ∨ p = .mapped)
  | .savebatt => decide (p = .loaded ∨ p = .mapped)
  | .extaudio => decide (p = .loaded ∨ p = .mapped)
  | .postaudio => decide (p = .loaded ∨ p = .mapped)
  | .sanitize => decide (p = .loaded ∨ p = .mapped)
  | .applyctlmirror => decide (p = .loaded ∨ p = .mapped)
  | .wraprd _ _ _ _ => decide (p = .loaded ∨ p = .mapped)
  | .wrapwr _ _ _ _ => decide (p = .loaded ∨ p = .mapped)
  | .setrd _ _ (.read fn) _ => decide (readCtx fn = .none ∨ p = .loaded ∨ p = .mapped)
  | .setwr _ _ (.write fn) _ => decide (writeCtx fn = .none ∨ p = .loaded ∨ p = .mapped)
  | _ => true

/-! ### Malformed command words (R105) -/

/-- The nineteen operation numbers (R91). -/
def opDefined (op : Nat) : Bool :=
  decide (1 ≤ op ∧ op ≤ 8) || decide (0x10 ≤ op ∧ op ≤ 0x15) || decide (0x20 ≤ op ∧ op ≤ 0x21)
    || decide (0x28 ≤ op ∧ op ≤ 0x2A)

/-- A descriptor `SETRD` may carry: a read kind other than `RD_TRAMP`, a size of 10 to 15 where it has one. -/
def setrdDescriptor (kind f2 : Nat) : Bool :=
  decide (kind ≤ 7) && (decide (kind < 3 ∨ kind = 7) || decide (10 ≤ f2 ∧ f2 ≤ 15))

/-- A descriptor `SETWR` may carry: a write kind other than `WR_TRAMP`, a size of 10 to 15 where it has one,
mirror style 0. -/
def setwrDescriptor (kind f1 f2 : Nat) : Bool :=
  (decide (0x80 ≤ kind ∧ kind ≤ 0x8E) || decide (0x90 ≤ kind ∧ kind ≤ 0x94))
    && (!decide (kind = 0x83 ∨ kind = 0x84 ∨ kind = 0x86) || decide (10 ≤ f2 ∧ f2 ≤ 15))
    && (!decide (kind = 0x8A) || decide (f1 = 0))

/-- The fields of a valid side effect (R104). -/
def sideEffectFields (f1 f2 f3 : Nat) : Bool := decide (f1 = 0 ∧ f2 ≤ 1 ∧ (f3 = 1 ∨ f3 = 2))

/-- A command word the block refuses as malformed (R105, rows 1 to 6). -/
def malformed (cw : BitVec 88) : Bool :=
  let op := (cw.extractLsb' 80 8).toNat
  let sp := (cw.extractLsb' 72 8).toNat
  let c := (cw.extractLsb' 32 8).toNat
  let kind := (cw.extractLsb' 24 8).toNat
  let f1 := (cw.extractLsb' 16 8).toNat
  let f2 := (cw.extractLsb' 8 8).toNat
  let f3 := (cw.extractLsb' 0 8).toNat
  !opDefined op
  || (decide (0x10 ≤ op ∧ op ≤ 0x15) && decide (2 ≤ sp))
  || (decide (op = 0x12) && !setrdDescriptor kind f2)
  || (decide (op = 0x13) && !setwrDescriptor kind f1 f2)
  || (decide (op = 0x14) && !(decide (kind = 0x08) && sideEffectFields f1 f2 f3))
  || (decide (op = 0x15) && !(decide (kind = 0x95) && sideEffectFields f1 f2 f3))
  || (decide (op = 0x28 ∨ op = 0x29) && decide (5 ≤ c))

/-! ### Runs -/

/-- `n` `TICK`s in a row. -/
def execTicks : Nat → State → Result
  | 0, s => .next s
  | n + 1, s =>
    match exec .tick s with
    | .next t => execTicks n t
    | .fault r => .fault r
    | .refused r => .refused r

/-- Writes of the given bytes, in order, to one `WR_SHIFT` entry. -/
def execShifts : WriteCall → List Byte → State → Result
  | _, [], s => .next s
  | c, v :: vs, s =>
    match exec (.wrShift { c with v := v }) s with
    | .next t => execShifts c vs t
    | .fault r => .fault r
    | .refused r => .refused r

/-- A run of A12 samples, each A12 with the clock it is taken at. -/
def a12Run (altIrq : Bool) : List (Bool × Nat) → Mmc3 → Mmc3
  | [], r => r
  | (a12, t) :: l, r => a12Run altIrq l (a12Step altIrq a12 t r).1

end Sys2Proof.Machine
end

