-- ==== Sys2Proof/Certificates/Slice0/Obligations.lean ====
section
/-! DEFINITION. The statements for the provers. Each docstring names the rules of spec/ it rests on. -/

open Sys2Proof Sys2Proof.Machine

/-! ### Encoding -/

/-- Every instruction is read back from its encoding, with every operand at every value (R90 to R94, R104,
R110; the layout of an invocation above its descriptor is the model's, notes/assumptions/4.md). -/
def Obligations.DecodeInvertsEncode : Prop := ∀ i : Instr, decode (encode i) = .ok i

/-- Command words of the vectors of spec/95_test_vectors.md (N12 and T1 among them) and the instructions they stand for
there. The `decodeTableWord` clauses are descriptors, a side effect and an address class by R92 to R94, R104 and R101;
the operands they show beside those fields (CPU space, `param` 0 or the address, byte 0) are the model's layout of an
invocation, notes/assumptions/4.md and 5.md. -/
def Obligations.SpecWordsDecode : Prop :=
  decodeCommand 0x0100000000000000000000 = .ok .init
  ∧ decodeCommand 0x1000800000000000000000 = .ok (.rd .cpu 0x8000)
  ∧ decodeCommand 0x1101000000000000000000 = .ok (.wr .ppu 0x0000 0x00)
  ∧ decodeCommand 0x1200000500050002000000 = .ok (.setrd .cpu 0x0005 (.read .store) 0x0005)
  ∧ decodeCommand 0x14010FD80FD80008000102 = .ok (.wraprd .ppu 0x0FD8 (.read (.tramp (.latch 1 2))) 0x0FD8)
  ∧ decodeCommand 0x200040008000000000C000 = .ok (.normbank 0x8000 0xC000 0x4000)
  ∧ decodeCommand 0x2800240000000000000000 = .ok (.mirroraddr 0x2400 .horizontal)
  ∧ decodeTableWord 32 0x86000E07 = some (.wrDirect ⟨.cpu, 0, 0⟩ false 0 14 7)
  ∧ decodeTableWord 32 0x06820C03 = some (.rdChrLatched ⟨.cpu, 0⟩ true 2 12 3)
  ∧ decodeTableWord 24 0x000102 = some (.seLatch 1 2)
  ∧ decodeTableWord 16 0xE001 = some (.wrM3Enable ⟨.cpu, 0xE001, 0⟩)

/-- A command word decodes to a well-formed instruction unless it is one of the words R105 names: nothing else is
refused as malformed, and nothing R105 names runs. -/
def Obligations.MalformedWordsAreExactlyThoseNamed : Prop :=
  ∀ w : BitVec 88, malformed w = false ↔ ∃ i, decodeCommand w = .ok i ∧ i.wellFormed = true

/-- The indexed reference variant installs on a CPU address the write kind of its address class: bits 15:13 and
bit 0 decode, bits 12:1 do not (R101, R277). -/
def Obligations.AddressClassSelectsTheWriteKind : Prop :=
  ∀ (alt : Bool) (a : Addr), 0x8000 ≤ a.toNat →
    mapCpuWrite (vIndexed alt) a.toNat
      = match a.toNat / 0x2000, a.toNat % 2 with
        | 4, 0 => ⟨.select, .mapper, a⟩
        | 4, _ => ⟨.data, .mapper, a⟩
        | 5, 0 => ⟨.mirror 0, .mapper, a⟩
        | 5, _ => ⟨.ignore, .none, a⟩
        | 6, 0 => ⟨.m3Latch, .mapper, a⟩
        | 6, _ => ⟨.m3Reload, .mapper, a⟩
        | _, 0 => ⟨.m3Disable, .mapper, a⟩
        | _, _ => ⟨.m3Enable, .mapper, a⟩

/-! ### The step -/

/-- A step runs the instruction the oldest issued word decodes to: the command leaves the port, its wired inputs
are present while it runs, the outputs of the command before it are gone (R9, R46, R72; the port is the model's,
notes/assumptions/3.md). -/
def Obligations.StepRunsTheDecodedInstruction : Prop :=
  ∀ (s : State) (e : Issue) (rest : List Issue) (i : Instr),
    s.port = e :: rest → variantValid s.params.variant = true → s.wires.now ≤ e.wires.now →
    decodeCommand e.word = .ok i → i.wellFormed = true →
    step s = exec i { s with port := rest, wires := e.wires, resp := none, calls := [] }

/-- Where no instruction runs: with no command issued nothing happens (R42; the idle step is the model's,
notes/assumptions/3.md); a malformed word is refused by name (R105); no step faults (R320). That a clock that went back
is refused, before the command runs and after the record is checked, is the model's choice (U17 gives the treatment,
notes/assumptions/15.md), and so is that every step of a record that is no variant is refused (U19,
notes/assumptions/14.md). -/
def Obligations.StepStopsByName : Prop :=
  ∀ s : State,
    (s.port = [] → step s = .next s)
    ∧ (∀ e rest, s.port = e :: rest → variantValid s.params.variant = false →
        step s = .refused .notAVariant)
    ∧ (∀ e rest, s.port = e :: rest → variantValid s.params.variant = true →
        e.wires.now < s.wires.now → step s = .refused .clockDecreased)
    ∧ (∀ e rest, s.port = e :: rest → variantValid s.params.variant = true →
        s.wires.now ≤ e.wires.now → malformed e.word = true →
        step s = .refused .illFormed ∨ ∃ why, step s = .refused (.invalidCommand why))
    ∧ ∀ f, step s ≠ .fault f

/-! ### Bus transactions and dispatch -/

/-- `RD` and `WR` run the kind their table entry holds, with the entry's `param` and not the address (R122 to
R125). The premise is `TrampolinesStaySound`'s invariant. -/
def Obligations.AccessRunsTheKindOfItsEntry : Prop :=
  ∀ (s : State) (sp : Space) (a : Addr), s.trampsOk →
    (let h := s.readEntry sp a
     exec (.rd sp a) s = exec (readInstr ⟨sp, h.param⟩ (ctxIndex h.ctx) h.fn) s)
    ∧ ∀ v : Byte,
      let h := s.writeEntry sp a
      exec (.wr sp a v) s = exec (writeInstr ⟨sp, h.param, v⟩ (ctxIndex h.ctx) h.fn) s

/-- Every `RD` and every `WR` completes whatever the address and the data, and so does every trampoline whose
record exists: a read answers one byte, in `resp[7:0]`, and leaves it as the last bus value, a write leaves the byte it
carries and answers nothing (R61, R91, R122, R123, R132, R226). -/
def Obligations.AccessAlwaysCompletes : Prop :=
  ∀ s : State, s.trampsOk →
    (∀ sp a, ∃ t v, exec (.rd sp a) s = .next t ∧ answersByte t.resp v ∧ (t.bus sp).last = v)
    ∧ (∀ sp a v, ∃ t, exec (.wr sp a v) s = .next t ∧ t.resp = s.resp ∧ (t.bus sp).last = v)
    ∧ (∀ c k se h o, s.tramp[k]? = some ⟨.rd h, o⟩ →
        ∃ t v, exec (.rdTramp c k se) s = .next t ∧ answersByte t.resp v ∧ (t.bus c.sp).last = v)
    ∧ ∀ c k se h o, s.tramp[k]? = some ⟨.wr h, o⟩ →
        ∃ t, exec (.wrTramp c k se) s = .next t ∧ t.resp = s.resp ∧ (t.bus c.sp).last = c.v

/-- A trampoline runs its side effect first and then what its record holds, with that handler's own `param`; the
byte is the forwarded handler's (R222, R223). -/
def Obligations.TrampolineForwards : Prop :=
  ∀ s : State, s.trampsOk →
    (∀ c k se h o, s.tramp[k]? = some ⟨.rd h, o⟩ →
      exec (.rdTramp c k se) s
        = exec (readInstr ⟨c.sp, h.param⟩ (ctxIndex h.ctx) h.fn) (s.runSideEffect se))
    ∧ ∀ c k se h o, s.tramp[k]? = some ⟨.wr h, o⟩ →
      exec (.wrTramp c k se) s
        = exec (writeInstr ⟨c.sp, h.param, c.v⟩ (ctxIndex h.ctx) h.fn) (s.runSideEffect se)

/-- After two wraps of one address a read there runs both side effects, the latest first, and then the original
handler in the state they left (R227). -/
def Obligations.TwoWrapsRunBothSideEffects : Prop :=
  ∀ (s : State) (sp : Space) (x p1 p2 : Addr) (se1 se2 : SideEffect),
    s.trampsOk → s.live = true → se1.wellFormed = true → se2.wellFormed = true →
    ∃ t u, exec (.wraprd sp x (.read (.tramp se1)) p1) s = .next t
      ∧ exec (.wraprd sp x (.read (.tramp se2)) p2) t = .next u
      ∧ (let h := s.readEntry sp x
         exec (.rd sp x) u
          = exec (readInstr ⟨sp, h.param⟩ (ctxIndex h.ctx) h.fn)
              ((u.runSideEffect se2).runSideEffect se1))

/-! ### Kinds of the bus -/

/-- The reads that touch bus-owned state only: an open read answers the last bus value, an external one a draw, a store
read its byte, or the last bus value past the store's end (R126, R127, R128). That the draw is `Config.freeByte` of the
counter `draws`, which goes up by one, is the model's choice (notes/assumptions/2.md). -/
def Obligations.BusReadsAnswer : Prop :=
  ∀ (c : ReadCall) (s : State),
    exec (.rdOpen c) s = .next (s.respond (.byte (s.bus c.sp).last))
    ∧ (let d := Config.freeByte s.draws
       exec (.rdExternal c) s
        = .next (({ s with draws := s.draws + 1 }.setLast c.sp d).respond (.byte d)))
    ∧ (c.param.toNat < spaceSize c.sp →
        (let v := s.storeByte c.sp c.param.toNat
         exec (.rdStore c) s = .next ((s.setLast c.sp v).respond (.byte v))))
    ∧ (spaceSize c.sp ≤ c.param.toNat →
        exec (.rdStore c) s = .next (s.respond (.byte (s.bus c.sp).last)))

/-- The writes with no effect of their own: only the last bus value changes (R123, R129, R130). -/
def Obligations.IgnoredWritesSetTheLastBusValue : Prop :=
  ∀ (c : WriteCall) (s : State),
    exec (.wrIgnore c) s = .next (s.setLast c.sp c.v)
    ∧ exec (.wrExternal c) s = .next (s.setLast c.sp c.v)

/-- A store write puts its byte at its `param`, past the store's end nowhere; every other byte of both stores and
of CHR-RAM reads as before, and nothing else but the last bus value changes (R131). -/
def Obligations.StoreWritePutsOneByte : Prop :=
  ∀ (c : WriteCall) (s : State),
    ∃ t, exec (.wrStore c) s = .next t
      ∧ (∀ sp i, t.storeByte sp i
          = if sp = c.sp ∧ i = c.param.toNat ∧ c.param.toNat < spaceSize c.sp then c.v else s.storeByte sp i)
      ∧ (∀ i, t.chrRamByte i = s.chrRamByte i)
      ∧ t.setBus c.sp { t.bus c.sp with store := (s.bus c.sp).store } = s.setLast c.sp c.v

/-- The nametable kinds that look the mode up: they access the byte the mirror mode folds their `param` onto, in
the mode of that moment (R164). -/
def Obligations.DynamicNametableAccess : Prop :=
  ∀ (s : State),
    (∀ c : ReadCall,
      let v := s.storeByte c.sp (mirrorAddress c.param s.mirrorMode).toNat
      exec (.rdNtDyn c) s = .next ((s.setLast c.sp v).respond (.byte v)))
    ∧ ∀ c : WriteCall,
      ∃ t, exec (.wrNtDyn c) s = .next t
        ∧ (mirrorAddress c.param s.mirrorMode).toNat < spaceSize c.sp
        ∧ (∀ sp i, t.storeByte sp i
            = if sp = c.sp ∧ i = (mirrorAddress c.param s.mirrorMode).toNat then c.v else s.storeByte sp i)
        ∧ (∀ i, t.chrRamByte i = s.chrRamByte i)
        ∧ t.setBus c.sp { t.bus c.sp with store := (s.bus c.sp).store } = s.setLast c.sp c.v

/-! ### Banked windows -/

/-- A PRG window reads byte `bank * size + (param mod size)` of the PRG ROM, and the last bus value past its end
(R145, R71). -/
def Obligations.PrgWindowRead : Prop :=
  ∀ (c : ReadCall) (slot : Slot) (log2 : Byte) (s : State),
    let index := (slotGet s.prgBank slot).toNat * 2 ^ log2.toNat + c.param.toNat % 2 ^ log2.toNat
    ∃ v, exec (.rdPrg c slot log2) s = .next ((s.setLast c.sp v).respond (.byte v))
      ∧ (index < s.prgSize → runsAt s.rom.prg index = some v)
      ∧ (s.prgSize ≤ index → v = (s.bus c.sp).last)

/-- A CHR window reads CHR ROM where there is one and CHR-RAM where there is none, the last bus value past the
end; the A12 form samples its `param` first and then reads the same byte (R147, R200). -/
def Obligations.ChrWindowRead : Prop :=
  ∀ (c : ReadCall) (slot : Slot) (log2 : Byte) (s : State),
    ∃ v, chrWindowReads s c.sp slot log2 c.param v
      ∧ exec (.rdChr c slot log2) s = .next ((s.setLast c.sp v).respond (.byte v))
      ∧ exec (.rdChrA12 c slot log2) s
        = .next (((s.a12Sample c.param).setLast c.sp v).respond (.byte v))

/-- A latched CHR window reads through slot A or slot B as its latch says, and leaves the output while the latch
is undefined (R251). In an instance without latches it leaves the output as well: that is the model's reading,
notes/assumptions/8.md. -/
def Obligations.LatchedWindowRead : Prop :=
  ∀ (c : ReadCall) (w : Bool) (slotA slotB : Slot) (log2 : Byte) (s : State),
    (∀ r, s.family = .latch r → latchOf r w = .undef →
      exec (.rdChrLatched c w slotA log2 slotB) s = .next (s.respond (.byte (s.bus c.sp).last)))
    ∧ (∀ r, s.family = .latch r → latchOf r w = .a →
      ∃ v, chrWindowReads s c.sp slotA log2 c.param v
        ∧ exec (.rdChrLatched c w slotA log2 slotB) s = .next ((s.setLast c.sp v).respond (.byte v)))
    ∧ (∀ r, s.family = .latch r → latchOf r w = .b →
      ∃ v, chrWindowReads s c.sp slotB log2 c.param v
        ∧ exec (.rdChrLatched c w slotA log2 slotB) s = .next ((s.setLast c.sp v).respond (.byte v)))
    ∧ ((∀ r, s.family ≠ .latch r) →
      exec (.rdChrLatched c w slotA log2 slotB) s = .next (s.respond (.byte (s.bus c.sp).last)))

/-- A CHR window write reaches CHR-RAM only, and only when there is no CHR ROM; every other byte reads as before.
The A12 form samples its `param` first; nothing but CHR-RAM, the last bus value and that sample's effects changes
(R148, R201). -/
def Obligations.ChrWindowWrite : Prop :=
  ∀ (c : WriteCall) (slot : Slot) (log2 : Byte) (s : State),
    let index := (slotGet s.chrBank slot).toNat * 2 ^ log2.toNat + c.param.toNat % 2 ^ log2.toNat
    ∃ m : Memory,
      exec (.wrChr c slot log2) s = .next { s.setLast c.sp c.v with chrRam := m }
      ∧ exec (.wrChrA12 c slot log2) s = .next { (s.setLast c.sp c.v).a12Sample c.param with chrRam := m }
      ∧ ∀ i, ({ s with chrRam := m }).chrRamByte i
          = if s.chrSize = 0 ∧ index < 8192 ∧ i = index then c.v else s.chrRamByte i

/-- `NORMBANK` with a bank size: 0 when the memory holds no bank, else the non-negative remainder of the signed
index by the number of banks, low eight bits; the answer is below `max(1, memsize/banksize)` and stands in `resp[7:0]`;
nothing but the response changes. With bank size 0 it is refused (R140). -/
def Obligations.NormbankAnswer : Prop :=
  ∀ (idx : BitVec 16) (mem : BitVec 32) (size : BitVec 16) (s : State),
    (size = 0 → exec (.normbank idx mem size) s = .refused .zeroBankSize)
    ∧ (size ≠ 0 → ∃ v : Byte,
        exec (.normbank idx mem size) s = .next (s.respond (.byte v))
        ∧ answersByte (s.respond (.byte v)).resp v
        ∧ v.toNat < max 1 (mem.toNat / size.toNat)
        ∧ (mem.toNat / size.toNat = 0 → v = 0)
        ∧ (mem.toNat / size.toNat ≠ 0 → (v.toNat : Int) = idx.toInt % (mem.toNat / size.toNat : Nat) % 256))

/-- `SANITIZE` normalises every slot again with the variant's bank sizes, changes nothing else, and a second one
changes nothing at all (R143). -/
def Obligations.SanitizeNormalisesEverySlot : Prop :=
  ∀ s : State, s.live = true →
    ∃ t, exec .sanitize s = .next t
      ∧ (∀ slot, slotGet t.prgBank slot
          = normalizeBank (slotGet s.prgBank slot).toNat s.prgSize s.params.variant.prgSanSize)
      ∧ (∀ slot, slotGet t.chrBank slot
          = normalizeBank (slotGet s.chrBank slot).toNat s.chrMemSize s.params.variant.chrSanSize)
      ∧ { t with prgBank := s.prgBank, chrBank := s.chrBank } = s
      ∧ exec .sanitize t = .next t

/-! ### Mirroring -/

/-- Mirror translation folds as the mode's table says, is idempotent and lands in `[$2000, $2FFF]` for every
16-bit address; `MIRRORADDR` answers it in `resp[15:0]` and changes nothing but the response (R160, R161, R167). -/
def Obligations.MirrorTranslation : Prop :=
  ∀ (a : Addr) (mode : MirrorMode) (s : State),
    ∃ m : Addr,
      exec (.mirroraddr a mode) s = .next (s.respond (.word m))
      ∧ (s.respond (.word m)).resp = some (.value m)
      ∧ 0x2000 ≤ m.toNat ∧ m.toNat ≤ 0x2FFF
      ∧ m.toNat % 1024 = a.toNat % 1024
      ∧ exec (.mirroraddr m mode) s = .next (s.respond (.word m))
      ∧ (let w := a.toNat / 1024 % 4
         m.toNat / 1024 % 4
          = match mode with
            | .horizontal => if w < 2 then 0 else 2
            | .vertical => w % 2
            | .oneScreenA => 0
            | .oneScreenB => 1
            | .fourScreen => w)

/-- `APPLYMIRROR` bakes the given mode into both halves of every entry of `$2000` to `$3EFF`, in every phase, and
changes nothing else (R162). -/
def Obligations.ApplyMirrorBakesTheMode : Prop :=
  ∀ (mode : MirrorMode) (s : State),
    ∃ t, exec (.applymirror mode) s = .next t
      ∧ (∀ a : Addr, t.readEntry .ppu a
          = if 0x2000 ≤ a.toNat % 16384 ∧ a.toNat % 16384 ≤ 0x3EFF then ⟨.store, .none, mirrorAddress a mode⟩
            else s.readEntry .ppu a)
      ∧ (∀ a : Addr, t.writeEntry .ppu a
          = if 0x2000 ≤ a.toNat % 16384 ∧ a.toNat % 16384 ≤ 0x3EFF then ⟨.store, .none, mirrorAddress a mode⟩
            else s.writeEntry .ppu a)
      ∧ t.cpu = s.cpu ∧ t.tramp = s.tramp ∧ s.sameOutsideTables t

/-- `APPLYCTLMIRROR` installs the kinds that look the mode up, each with its own address (R163). -/
def Obligations.ApplyCtlMirrorInstallsLookups : Prop :=
  ∀ s : State, s.live = true →
    ∃ t, exec .applyctlmirror s = .next t
      ∧ (∀ a : Addr, t.readEntry .ppu a
          = if 0x2000 ≤ a.toNat % 16384 ∧ a.toNat % 16384 ≤ 0x3EFF then
              ⟨.ntDyn, .mapper, BitVec.ofNat 16 (a.toNat % 16384)⟩
            else s.readEntry .ppu a)
      ∧ (∀ a : Addr, t.writeEntry .ppu a
          = if 0x2000 ≤ a.toNat % 16384 ∧ a.toNat % 16384 ≤ 0x3EFF then
              ⟨.ntDyn, .mapper, BitVec.ofNat 16 (a.toNat % 16384)⟩
            else s.writeEntry .ppu a)
      ∧ t.cpu = s.cpu ∧ t.tramp = s.tramp ∧ s.sameOutsideTables t

/-- A mirror register write of style 0: bit 0 chooses Vertical or Horizontal, the other bits do nothing, and a
FourScreen ROM keeps its mode; nothing else but the last bus value changes (R99, R166). -/
def Obligations.MirrorWriteSetsTheMode : Prop :=
  ∀ (c : WriteCall) (s : State),
    ∃ m, exec (.wrMirror c 0) s = .next { s.setLast c.sp c.v with mirrorMode := m }
      ∧ (s.rom.mirroring = .fourScreen → m = s.mirrorMode)
      ∧ (s.rom.mirroring ≠ .fourScreen → c.v.toNat % 2 = 0 → m = .vertical)
      ∧ (s.rom.mirroring ≠ .fourScreen → c.v.toNat % 2 = 1 → m = .horizontal)

/-! ### Installing handlers -/

/-- `SETRD` overwrites the read half and `SETWR` the write half of exactly one entry, its context the one its kind
has; the other half, every other entry and all else stay (R120, R121). -/
def Obligations.InstallOverwritesOneEntry : Prop :=
  ∀ (s : State) (sp : Space) (a : Addr) (param : Addr),
    (∀ fn : ReadKind, (Kind.read fn).okSetrd = true → (readCtx fn = .none ∨ s.live = true) →
      ∃ t, exec (.setrd sp a (.read fn) param) s = .next t
        ∧ (∀ sp' b, t.readEntry sp' b
            = if sp' = sp ∧ entryIndex sp b = entryIndex sp a then ⟨fn, readCtx fn, param⟩
              else s.readEntry sp' b)
        ∧ (∀ sp', (t.bus sp').wr = (s.bus sp').wr)
        ∧ t.tramp = s.tramp ∧ s.sameOutsideTables t)
    ∧ ∀ fn : WriteKind, (Kind.write fn).okSetwr = true → (writeCtx fn = .none ∨ s.live = true) →
      ∃ t, exec (.setwr sp a (.write fn) param) s = .next t
        ∧ (∀ sp' b, t.writeEntry sp' b
            = if sp' = sp ∧ entryIndex sp b = entryIndex sp a then ⟨fn, writeCtx fn, param⟩
              else s.writeEntry sp' b)
        ∧ (∀ sp', (t.bus sp').rd = (s.bus sp').rd)
        ∧ t.tramp = s.tramp ∧ s.sameOutsideTables t

/-- `WRAPRD` and `WRAPWR` append a record of the entry's handler and install the trampoline over it, the new
record's index its context; the other half and every other entry stay (R220, R221). -/
def Obligations.WrapCapturesThenInstalls : Prop :=
  ∀ (s : State) (sp : Space) (a : Addr) (se : SideEffect) (param : Addr),
    s.live = true → se.wellFormed = true →
    (∃ t, exec (.wraprd sp a (.read (.tramp se)) param) s = .next t
      ∧ t.tramp = s.tramp ++ [⟨.rd (s.readEntry sp a), .mapper⟩]
      ∧ (∀ sp' b, t.readEntry sp' b
          = if sp' = sp ∧ entryIndex sp b = entryIndex sp a then ⟨.tramp se, .tramp s.tramp.length, param⟩
            else s.readEntry sp' b)
      ∧ (∀ sp', (t.bus sp').wr = (s.bus sp').wr) ∧ s.sameOutsideTables t)
    ∧ ∃ t, exec (.wrapwr sp a (.write (.tramp se)) param) s = .next t
      ∧ t.tramp = s.tramp ++ [⟨.wr (s.writeEntry sp a), .mapper⟩]
      ∧ (∀ sp' b, t.writeEntry sp' b
          = if sp' = sp ∧ entryIndex sp b = entryIndex sp a then ⟨.tramp se, .tramp s.tramp.length, param⟩
            else s.writeEntry sp' b)
      ∧ (∀ sp', (t.bus sp').rd = (s.bus sp').rd) ∧ s.sameOutsideTables t

/-! ### Lifecycle -/

/-- `INIT` outside phase `DEAD`: every entry that referred to the mapper is the power-on entry and no other entry
changed, the ROM is bound, every register has its INIT value, the line is down and the sink was told
(R300, R45). -/
def Obligations.InitBuildsTheInstance : Prop :=
  ∀ s : State, s.tablesWf → s.phase ≠ .dead →
    ∃ t, exec .init s = .next t
      ∧ (∀ sp a, t.readEntry sp a
          = if (s.readEntry sp a).ctx = .none then s.readEntry sp a else readPowerOn)
      ∧ (∀ sp a, t.writeEntry sp a
          = if (s.writeEntry sp a).ctx = .none then s.writeEntry sp a else writePowerOn)
      ∧ t.tramp = [] ∧ t.rom = s.wires.rom
      ∧ (∀ slot, slotGet t.prgBank slot = 0 ∧ slotGet t.chrBank slot = 0)
      ∧ t.mirrorMode = s.wires.rom.mirroring
      ∧ t.irq = irqInit s.params.variant.irq ∧ t.family = familyInit s.params.variant.family
      ∧ t.irqOut = false ∧ t.calls = s.calls ++ [.clearIrq]
      ∧ t.phase = .loaded
      ∧ (∀ sp, (t.bus sp).store = (s.bus sp).store ∧ (t.bus sp).last = (s.bus sp).last)
      ∧ t.chrRam = s.chrRam ∧ t.params = s.params ∧ t.wires = s.wires ∧ t.draws = s.draws
      ∧ t.answers = s.answers ∧ t.port = s.port ∧ t.resp = s.resp

/-- The entries `APPLYMAP` builds from the record, spelled out: in the read half at every address no trampoline row
covers, in the write half everywhere, the window, register row, cartridge RAM or nametable entry of the address;
elsewhere what was there, a trampoline giving way to the power-on entry (R302 steps 1 and 3 to 6, R168). -/
def Obligations.ApplyMapBuildsTheEntries : Prop :=
  ∀ s : State, s.tablesWf → variantValid s.params.variant = true → s.live = true →
    ∃ t, exec .applymap s = .next t
      ∧ (∀ a : Addr, s.params.variant.wraps.any (wrapCovers .cpu a.toNat) = false →
          mappedCpuRead s a (t.readEntry .cpu a))
      ∧ (∀ a : Addr, mappedCpuWrite s a (t.writeEntry .cpu a))
      ∧ (∀ a : Addr, a.toNat < 16384 → s.params.variant.wraps.any (wrapCovers .ppu a.toNat) = false →
          mappedPpuRead s a (t.readEntry .ppu a))
      ∧ ∀ a : Addr, a.toNat < 16384 → mappedPpuWrite s a (t.writeEntry .ppu a)

/-- The trampolines `APPLYMAP` builds: one record for each address of each row, in list order and by rising address.
The record of the first row that covers an address holds the entry of steps 3 to 6, that of a later row the trampoline
of the covering row before it; the read entry is the trampoline of the last covering row, with the address as `param`
and its record as context (R302 steps 1 and 7, R220, R364). -/
def Obligations.ApplyMapBuildsTheTrampolines : Prop :=
  ∀ s : State, s.tablesWf → variantValid s.params.variant = true → s.live = true →
    ∃ t, exec .applymap s = .next t
      ∧ t.tramp.length = (s.params.variant.wraps.map wrapLength).sum
      ∧ ∀ (pre post : List Wrap) (w : Wrap) (a : Addr),
          s.params.variant.wraps = pre ++ w :: post → wrapCovers w.space a.toNat w = true →
          ∃ h, t.tramp[wrapIndex pre w a.toNat]? = some ⟨.rd h, .mapper⟩
            ∧ (pre.any (wrapCovers w.space a.toNat) = false → mappedRead s w.space a h)
            ∧ (∀ pre' w' mid, pre = pre' ++ w' :: mid → wrapCovers w.space a.toNat w' = true →
                mid.any (wrapCovers w.space a.toNat) = false →
                h = ⟨.tramp w'.se, .tramp (wrapIndex pre' w' a.toNat), a⟩)
            ∧ (post.any (wrapCovers w.space a.toNat) = false →
                t.readEntry w.space a = ⟨.tramp w.se, .tramp (wrapIndex pre w a.toNat), a⟩)

/-- What `APPLYMAP` does outside the tables: on the first run the bank registers get the record's initial
indices, normalised; on a later run they stay; the phase becomes `MAPPED`; everything else stays
(R302 step 2, R365). -/
def Obligations.ApplyMapSetsInitialBanksOnce : Prop :=
  ∀ s : State, s.live = true →
    ∃ t, exec .applymap s = .next t
      ∧ (s.phase = .loaded → ∀ slot,
          slotGet t.prgBank slot
            = initialised (prgInits s.params.variant) s.prgSize slot (slotGet s.prgBank slot)
          ∧ slotGet t.chrBank slot
            = initialised (chrInits s.params.variant) s.chrMemSize slot (slotGet s.chrBank slot))
      ∧ (s.phase = .mapped → t.prgBank = s.prgBank ∧ t.chrBank = s.chrBank)
      ∧ t.phase = .mapped
      ∧ s.sameOutsideTables { t with prgBank := s.prgBank, chrBank := s.chrBank, phase := s.phase }

/-- `RESET` gives every bank register its initial index, 0 where the record names none, the mirror mode of the
ROM and the INIT values of the counter and the family, and clears the line; tables, records, memories, last bus
values and phase stay (R304). -/
def Obligations.ResetRestoresTheRegisters : Prop :=
  ∀ s : State, s.live = true →
    ∃ t, exec .reset s = .next t
      ∧ (∀ slot,
          slotGet t.prgBank slot = initialised (prgInits s.params.variant) s.prgSize slot 0
          ∧ slotGet t.chrBank slot = initialised (chrInits s.params.variant) s.chrMemSize slot 0)
      ∧ t.mirrorMode = s.rom.mirroring
      ∧ t.irq = irqInit s.params.variant.irq ∧ t.family = familyInit s.params.variant.family
      ∧ t.irqOut = false ∧ t.calls = s.calls ++ [.clearIrq]
      ∧ { t with
          prgBank := s.prgBank, chrBank := s.chrBank, mirrorMode := s.mirrorMode, irq := s.irq,
          family := s.family, irqOut := s.irqOut, calls := s.calls } = s

/-- `TEARDOWN`, in every phase: no entry refers to the mapper afterwards and no other entry changed, the records
are gone, the line is down, the phase is `DEAD`; and no command leaves that phase (R308). -/
def Obligations.TeardownReleasesEverything : Prop :=
  (∀ s : State, s.tablesWf →
    ∃ t, exec .teardown s = .next t
      ∧ (∀ sp a, t.readEntry sp a
          = if (s.readEntry sp a).ctx = .none then s.readEntry sp a else readPowerOn)
      ∧ (∀ sp a, t.writeEntry sp a
          = if (s.writeEntry sp a).ctx = .none then s.writeEntry sp a else writePowerOn)
      ∧ t.tramp = [] ∧ t.irqOut = false ∧ t.calls = s.calls ++ [.clearIrq] ∧ t.phase = .dead
      ∧ s.sameOutsideTables { t with irqOut := s.irqOut, calls := s.calls, phase := s.phase })
  ∧ ∀ (i : Instr) (s t : State), s.phase = .dead → exec i s = .next t → t.phase = .dead

/-- The hooks: `SAVEBATT` answers `HAS_BATTERY` in `resp[0]`; the audio hooks answer the wired sample unchanged,
whatever the rate; nothing but the response changes (R305, R306, R307). -/
def Obligations.HooksAnswer : Prop :=
  ∀ s : State, s.live = true →
    exec .savebatt s = .next (s.respond (.flag s.params.hasBattery))
    ∧ answersFlag (s.respond (.flag s.params.hasBattery)).resp s.params.hasBattery
    ∧ exec .extaudio s = .next (s.respond (.sample s.wires.sample))
    ∧ exec .postaudio s = .next (s.respond (.sample s.wires.sample))
    ∧ (s.respond (.sample s.wires.sample)).resp = some (.sample s.wires.sample)

/-- The phase table: a well-formed command is refused for its phase exactly where the table says no, and completes
where it says yes (R309, R360). `RD` and `WR` complete by the trampoline invariant, `NORMBANK` with a bank size. -/
def Obligations.PhaseTable : Prop :=
  ∀ (i : Instr) (s : State), i.wellFormed = true → readPartsOf i = none → writePartsOf i = none →
    (legalIn s.phase i = false → exec i s = .refused (.wrongPhase s.phase))
    ∧ (legalIn s.phase i = true → s.trampsOk → (∀ idx mem, i ≠ .normbank idx mem 0) →
        ∃ t, exec i s = .next t)

/-! ### IRQ counters -/

/-- `TICK` of the 8-bit VRC counter: in cycle mode the prescaler goes down by 3 and a value of 0 or less takes 341
back and clocks the counter; in scanline mode only the parameter can clock it. A clock of an all-ones counter
reloads it and, if E is set, raises the line. M and E stand where the instance's parameters put them, and the value of M
that means cycle mode is theirs too (R31, R183, R184, R303). -/
def Obligations.TickOfTheEightBitCounter : Prop :=
  ∀ (s : State) (r : Vrc8), s.live = true → s.irq = .vrc8 r →
    let bits := s.params.vrcBits
    let cycle := decide (r.ctrl.getLsbD bits.m = bits.cycleMode)
    let q := r.prescaler - 3
    let clock := if cycle then decide (q.toInt ≤ 0) else decide (s.params.scanlineClock = .everyTick)
    let wrap := clock && decide (r.counter = 0xFF)
    ∃ r' : Vrc8,
      exec .tick s = .next (if wrap && r.ctrl.getLsbD bits.e then
          { s with irq := .vrc8 r', irqOut := true, calls := s.calls ++ [.irq] }
        else { s with irq := .vrc8 r' })
      ∧ r'.prescaler = (if cycle then (if q.toInt ≤ 0 then q + 341 else q) else r.prescaler)
      ∧ r'.counter = (if wrap then r.latch else if clock then r.counter + 1 else r.counter)
      ∧ r'.latch = r.latch ∧ r'.ctrl = r.ctrl

/-- `TICK` of the 16-bit VRC counter: the same, the whole counter with S = 0; with S = 1 its low byte alone counts,
wraps and reloads from the latch's low byte, the high byte never moving (R31, R183, R184, R303). -/
def Obligations.TickOfTheSixteenBitCounter : Prop :=
  ∀ (s : State) (r : Vrc16), s.live = true → s.irq = .vrc16 r →
    let bits := s.params.vrcBits
    let cycle := decide (r.ctrl.getLsbD bits.m = bits.cycleMode)
    let sub := r.ctrl.getLsbD bits.s
    let q := r.prescaler - 3
    let clock := if cycle then decide (q.toInt ≤ 0) else decide (s.params.scanlineClock = .everyTick)
    let wrap := clock && (if sub then decide (r.counter.toNat % 256 = 255) else decide (r.counter = 0xFFFF))
    ∃ r' : Vrc16,
      exec .tick s = .next (if wrap && r.ctrl.getLsbD bits.e then
          { s with irq := .vrc16 r', irqOut := true, calls := s.calls ++ [.irq] }
        else { s with irq := .vrc16 r' })
      ∧ r'.prescaler = (if cycle then (if q.toInt ≤ 0 then q + 341 else q) else r.prescaler)
      ∧ (sub = false →
          r'.counter = if wrap then r.latch else if clock then r.counter + 1 else r.counter)
      ∧ (sub = true →
          r'.counter.toNat / 256 = r.counter.toNat / 256
          ∧ r'.counter.toNat % 256
            = if wrap then r.latch.toNat % 256
              else if clock then r.counter.toNat % 256 + 1 else r.counter.toNat % 256)
      ∧ r'.latch = r.latch ∧ r'.ctrl = r.ctrl

/-- The timing law of the VRC counters. After a control write with E = 1 and cycle mode in M (and S = 0 in the 16-bit
variant), each bit where the instance's parameters put it, `n` ticks have clocked the counter `3n div 341` times; the counter has gone from the latch to all ones
and wrapped back to the latch every `MAX - L + 1` clocks, asserting at each wrap and at nothing else (R187). -/
def Obligations.VrcTimingLaw : Prop :=
  ∀ (c : WriteCall) (s s1 : State) (n : Nat),
    s.live = true → c.v.getLsbD s.params.vrcBits.m = s.params.vrcBits.cycleMode →
    c.v.getLsbD s.params.vrcBits.e = true → exec (.wrVrcCtrl c) s = .next s1 →
    (∀ r, s.irq = .vrc8 r →
      ∃ r' : Vrc8, execTicks n s1 = .next { s1 with
          irq := .vrc8 r'
          irqOut := s.irqOut || decide (256 - r.latch.toNat ≤ 3 * n / 341)
          calls := s.calls ++ List.replicate (3 * n / 341 / (256 - r.latch.toNat)) .irq }
        ∧ r'.latch = r.latch
        ∧ r'.prescaler.toInt = 341 - (3 * n % 341 : Nat)
        ∧ r'.counter.toNat = r.latch.toNat + 3 * n / 341 % (256 - r.latch.toNat))
    ∧ ∀ r, s.irq = .vrc16 r → c.v.getLsbD s.params.vrcBits.s = false →
      ∃ r' : Vrc16, execTicks n s1 = .next { s1 with
          irq := .vrc16 r'
          irqOut := s.irqOut || decide (65536 - r.latch.toNat ≤ 3 * n / 341)
          calls := s.calls ++ List.replicate (3 * n / 341 / (65536 - r.latch.toNat)) .irq }
        ∧ r'.latch = r.latch
        ∧ r'.prescaler.toInt = 341 - (3 * n % 341 : Nat)
        ∧ r'.counter.toNat = r.latch.toNat + 3 * n / 341 % (65536 - r.latch.toNat)

/-- The latch writes of the VRC variants: the whole 8-bit latch, or one half of the 16-bit one with the other half
kept; nothing else but the last bus value changes (R180, R181). -/
def Obligations.VrcLatchWrites : Prop :=
  ∀ (c : WriteCall) (s : State),
    (∀ r, s.irq = .vrc8 r →
      exec (.wrVrcLatch c) s = .next { s.setLast c.sp c.v with irq := .vrc8 { r with latch := c.v } }
      ∧ exec (.wrVrcLatchLo c) s = .next { s.setLast c.sp c.v with irq := .vrc8 { r with latch := c.v } }
      ∧ exec (.wrVrcLatchHi c) s = .next (s.setLast c.sp c.v))
    ∧ ∀ r, s.irq = .vrc16 r →
      ∃ lo hi : BitVec 16,
        exec (.wrVrcLatch c) s = .next { s.setLast c.sp c.v with irq := .vrc16 { r with latch := lo } }
        ∧ exec (.wrVrcLatchLo c) s = .next { s.setLast c.sp c.v with irq := .vrc16 { r with latch := lo } }
        ∧ exec (.wrVrcLatchHi c) s = .next { s.setLast c.sp c.v with irq := .vrc16 { r with latch := hi } }
        ∧ lo.toNat = 256 * (r.latch.toNat / 256) + c.v.toNat
        ∧ hi.toNat = 256 * c.v.toNat + r.latch.toNat % 256

/-- A VRC control write stores bits 3:0, loads the whole counter from the latch if E, where the instance's parameters
put it, is set, and sets the prescaler to 341 whatever E is; the latch and the line stay. By default M, A, E and S are
bits 0 to 3 and M = 1 is cycle mode (R182, R98, R31). -/
def Obligations.VrcControlWrite : Prop :=
  Config.vrcBits = ⟨0, 1, 2, 3, true⟩ ∧ State.reset.params.vrcBits = Config.vrcBits ∧
  ∀ (c : WriteCall) (s : State),
    (∀ r, s.irq = .vrc8 r →
      ∃ ctrl : BitVec 4, ctrl.toNat = c.v.toNat % 16
        ∧ (let r' : Vrc8 := { r with
             ctrl := ctrl, prescaler := 341
             counter := if c.v.getLsbD s.params.vrcBits.e then r.latch else r.counter }
           exec (.wrVrcCtrl c) s = .next { s.setLast c.sp c.v with irq := .vrc8 r' }))
    ∧ ∀ r, s.irq = .vrc16 r →
      ∃ ctrl : BitVec 4, ctrl.toNat = c.v.toNat % 16
        ∧ (let r' : Vrc16 := { r with
             ctrl := ctrl, prescaler := 341
             counter := if c.v.getLsbD s.params.vrcBits.e then r.latch else r.counter }
           exec (.wrVrcCtrl c) s = .next { s.setLast c.sp c.v with irq := .vrc16 r' })

/-- A VRC acknowledge clears the line, tells the sink, and copies control bit A into bit E, where the instance's
parameters put them (by default bit 1 into bit 2); the other control bits, the counter, the latch and the prescaler
stay (R186). -/
def Obligations.VrcAcknowledge : Prop :=
  Config.vrcBits.a = 1 ∧ Config.vrcBits.e = 2 ∧
  ∀ (c : WriteCall) (s : State),
    (∀ r, s.irq = .vrc8 r →
      ∃ ctrl : BitVec 4,
        (∀ j : Fin 4, ctrl.getLsbD j
          = if j = s.params.vrcBits.e then r.ctrl.getLsbD s.params.vrcBits.a else r.ctrl.getLsbD j)
        ∧ exec (.wrVrcAck c) s = .next { s.setLast c.sp c.v with
            irq := .vrc8 { r with ctrl := ctrl }, irqOut := false, calls := s.calls ++ [.clearIrq] })
    ∧ ∀ r, s.irq = .vrc16 r →
      ∃ ctrl : BitVec 4,
        (∀ j : Fin 4, ctrl.getLsbD j
          = if j = s.params.vrcBits.e then r.ctrl.getLsbD s.params.vrcBits.a else r.ctrl.getLsbD j)
        ∧ exec (.wrVrcAck c) s = .next { s.setLast c.sp c.v with
            irq := .vrc16 { r with ctrl := ctrl }, irqOut := false, calls := s.calls ++ [.clearIrq] }

/-- The register writes of the MMC3 variant (R198, R199). -/
def Obligations.Mmc3RegisterWrites : Prop :=
  ∀ (c : WriteCall) (s : State) (r : Mmc3), s.irq = .mmc3 r →
    exec (.wrM3Latch c) s = .next { s.setLast c.sp c.v with irq := .mmc3 { r with latch := c.v } }
    ∧ exec (.wrM3Reload c) s
      = .next { s.setLast c.sp c.v with irq := .mmc3 { r with reloadPending := true } }
    ∧ exec (.wrM3Disable c) s = .next { s.setLast c.sp c.v with
        irq := .mmc3 { r with enable := false }, irqOut := false, calls := s.calls ++ [.clearIrq] }
    ∧ exec (.wrM3Enable c) s = .next { s.setLast c.sp c.v with irq := .mmc3 { r with enable := true } }

/-- A kind whose counter or family the instance does not hold has no effect of its own, the A12 kinds are then the
plain CHR kinds, and `TICK` does nothing without a VRC counter (R203, R235, R303). -/
def Obligations.KindsWithoutTheirStateDoNothing : Prop :=
  ∀ (c : WriteCall) (s : State),
    ((∀ r, s.irq ≠ .vrc8 r) → (∀ r, s.irq ≠ .vrc16 r) →
      (∀ i ∈ [Instr.wrVrcLatch c, .wrVrcLatchLo c, .wrVrcLatchHi c, .wrVrcCtrl c, .wrVrcAck c],
        exec i s = .next (s.setLast c.sp c.v))
      ∧ (s.live = true → exec .tick s = .next s))
    ∧ ((∀ r, s.irq ≠ .mmc3 r) →
      (∀ i ∈ [Instr.wrM3Latch c, .wrM3Reload c, .wrM3Disable c, .wrM3Enable c],
        exec i s = .next (s.setLast c.sp c.v))
      ∧ (∀ slot log2, exec (.wrChrA12 c slot log2) s = exec (.wrChr c slot log2) s)
      ∧ ∀ d slot log2, exec (.rdChrA12 d slot log2) s = exec (.rdChr d slot log2) s)
    ∧ ((∀ r, s.family ≠ .serial r) → exec (.wrShift c) s = .next (s.setLast c.sp c.v))
    ∧ ((∀ r, s.family ≠ .indexed r) →
      exec (.wrSelect c) s = .next (s.setLast c.sp c.v) ∧ exec (.wrData c) s = .next (s.setLast c.sp c.v))
    ∧ ((∀ r, s.family ≠ .latch r) → ∀ w st, exec (.seLatch w st) s = .next s)

/-- An A12 sample: only `$0000` to `$1FFF` counts, the first sample of an instance never clocks, a low sample after
a high one starts the low period, and a rise after at least 3 cycles low clocks the counter: it reloads if a
reload is pending or it stands at 0, else goes down by one; the line rises if the counter fires and is enabled
(R193, R195, R196, R197). -/
def Obligations.A12SampleClocksTheCounter : Prop :=
  ∀ (s : State) (r : Mmc3) (a : Addr), s.irq = .mmc3 r →
    let high := decide (a.toNat / 4096 % 2 = 1)
    (0x1FFF < a.toNat → s.a12Sample a = s)
    ∧ (a.toNat ≤ 0x1FFF → r.a12Init = false →
        s.a12Sample a = { s with irq := .mmc3 { r with
          a12Init := true, a12High := high
          a12LowSince := if high then r.a12LowSince else s.wires.now } })
    ∧ (a.toNat ≤ 0x1FFF → r.a12Init = true → high = false →
        s.a12Sample a = { s with irq := .mmc3 { r with
          a12High := false
          a12LowSince := if r.a12High then s.wires.now else r.a12LowSince } })
    ∧ (a.toNat ≤ 0x1FFF → r.a12Init = true → high = true →
        (r.a12High = true ∨ s.wires.now - r.a12LowSince < 3) →
        s.a12Sample a = { s with irq := .mmc3 { r with a12High := true } })
    ∧ (a.toNat ≤ 0x1FFF → r.a12Init = true → high = true →
        r.a12High = false → 3 ≤ s.wires.now - r.a12LowSince →
        let reload := r.reloadPending || decide (r.counter = 0)
        let new := if reload then r.latch else r.counter - 1
        let fires := if s.params.variant.altIrq then decide (r.counter = 1 ∧ new = 0) else decide (new = 0)
        let r' := { r with
          counter := new, a12High := true
          reloadPending := if reload then false else r.reloadPending }
        s.a12Sample a = if fires && r.enable then
            { s with irq := .mmc3 r', irqOut := true, calls := s.calls ++ [.irq] }
          else { s with irq := .mmc3 r' })

/-- The filter property: from a high line, a fall at `t0`, any low samples, a rise at `t1` and any high samples
clock the counter once if `t1 - t0` is at least 3 and not at all if it is less (R195). -/
def Obligations.A12FilterCountsRisingEdges : Prop :=
  ∀ (alt : Bool) (r : Mmc3) (t0 t1 : Nat) (lows highs : List Nat),
    r.a12Init = true → r.a12High = true →
    let r' := a12Run alt
      ((false, t0) :: lows.map (fun t => (false, t)) ++ (true, t1) :: highs.map (fun t => (true, t))) r
    let once := (m3Clock alt r).1
    r'.counter = (if 3 ≤ t1 - t0 then once.counter else r.counter)
    ∧ r'.reloadPending = (if 3 ≤ t1 - t0 then once.reloadPending else r.reloadPending)
    ∧ r'.latch = r.latch ∧ r'.enable = r.enable
    ∧ r'.a12LowSince = t0 ∧ r'.a12High = true ∧ r'.a12Init = true

/-- The line rises only if the enable of the instance's counter was set, and only in a `TICK` of a VRC counter or in an
access that samples A12 in an instance of the MMC3 counter; it falls only in a lifecycle command or in a write that
reaches the acknowledge of a VRC counter or the disable of the MMC3 counter (R325, R326, R327). -/
def Obligations.LineRisesAndFalls : Prop :=
  ∀ (i : Instr) (s t : State), exec i s = .next t →
    (s.irqOut = false → t.irqOut = true →
      s.irqEnabled = true
      ∧ ((i = .tick ∧ (irqNameOf s.irq = .vrc8 ∨ irqNameOf s.irq = .vrc16))
        ∨ (irqNameOf s.irq = .mmc3 ∧ samplesA12 s i)))
    ∧ (s.irqOut = true → t.irqOut = false →
      i = .init ∨ i = .reset ∨ i = .teardown
      ∨ ((irqNameOf s.irq = .vrc8 ∨ irqNameOf s.irq = .vrc16)
        ∧ ∃ sp param, writeReached s i = some (sp, .vrcAck, param))
      ∨ (irqNameOf s.irq = .mmc3 ∧ ∃ sp param, writeReached s i = some (sp, .m3Disable, param)))

/-! ### Mapper families -/

/-- One serial write: with bit 7 set it abandons the sequence, forces `ctl | 0x0C` and recomputes; a fifth bit
commits the assembled value to the register that address bits 14:13 choose and recomputes; any other write shifts
bit 0 in at the place `sh_cnt` names and changes nothing else (R236, R237, R100). R237 gives the recompute of `V_SERIAL`'s
slots and sizes; that every other record of family SERIAL runs the same one is the model's choice (R282 gives none,
notes/assumptions/29.md). -/
def Obligations.SerialWrite : Prop :=
  ∀ (c : WriteCall) (s : State) (r : Serial), s.family = .serial r →
    let v : BitVec 5 := r.shVal ||| ((BitVec.ofBool (c.v.getLsbD 0)).setWidth 5 <<< r.shCnt.toNat)
    let u := s.setLast c.sp c.v
    (c.v.getLsbD 7 = true →
      let r' : Serial := { r with shVal := 0, shCnt := 0, ctl := r.ctl ||| 0x0C }
      ∃ t, exec (.wrShift c) s = .next t ∧ serialRecomputed s t r'
        ∧ { t with prgBank := s.prgBank, chrBank := s.chrBank, mirrorMode := s.mirrorMode }
          = { u with family := .serial r' })
    ∧ (c.v.getLsbD 7 = false → r.shCnt ≠ 4 →
      exec (.wrShift c) s
        = .next { u with family := .serial { r with shVal := v, shCnt := r.shCnt + 1 } })
    ∧ (c.v.getLsbD 7 = false → r.shCnt = 4 →
      let target := c.param.toNat / 8192 % 4
      let r' : Serial :=
        { shVal := 0, shCnt := 0
          ctl := if target = 0 then v else r.ctl
          chr0 := if target = 1 then v else r.chr0
          chr1 := if target = 2 then v else r.chr1
          prgreg := if target = 3 then v else r.prgreg }
      ∃ t, exec (.wrShift c) s = .next t ∧ serialRecomputed s t r'
        ∧ { t with prgBank := s.prgBank, chrBank := s.chrBank, mirrorMode := s.mirrorMode }
          = { u with family := .serial r' })

/-- Five serial writes from an empty shift register, none with bit 7 set, leave the chosen register equal to their
five bits, the first in bit 0, and the sequence empty again; the other registers stay (R236, R106). -/
def Obligations.FiveSerialWritesAssembleARegister : Prop :=
  ∀ (c : WriteCall) (s : State) (r : Serial) (v0 v1 v2 v3 v4 : Byte),
    s.family = .serial r → r.shCnt = 0 → r.shVal = 0 →
    (∀ v ∈ [v0, v1, v2, v3, v4], v.getLsbD 7 = false) →
    ∃ t r', execShifts c [v0, v1, v2, v3, v4] s = .next t ∧ t.family = .serial r'
      ∧ r'.shCnt = 0 ∧ r'.shVal = 0
      ∧ (let target := c.param.toNat / 8192 % 4
         let value := v0.toNat % 2 + 2 * (v1.toNat % 2) + 4 * (v2.toNat % 2) + 8 * (v3.toNat % 2)
           + 16 * (v4.toNat % 2)
         r'.ctl.toNat = (if target = 0 then value else r.ctl.toNat)
         ∧ r'.chr0.toNat = (if target = 1 then value else r.chr0.toNat)
         ∧ r'.chr1.toNat = (if target = 2 then value else r.chr1.toNat)
         ∧ r'.prgreg.toNat = if target = 3 then value else r.prgreg.toNat)

/-- A select write stores the whole byte and recomputes the banks; a data write stores the byte in the target
register the last select named and recomputes (R240, R241, R242). R242 gives the recompute of `V_INDEXED`'s slots and
sizes; that every other record of family INDEXED runs the same one is the model's choice (R282 gives none,
notes/assumptions/29.md). -/
def Obligations.IndexedWrites : Prop :=
  ∀ (c : WriteCall) (s : State) (r : Indexed), s.family = .indexed r →
    (∃ t, exec (.wrSelect c) s = .next t ∧ indexedRecomputed s t { r with sel := c.v }
      ∧ { t with prgBank := s.prgBank, chrBank := s.chrBank }
        = { s.setLast c.sp c.v with family := .indexed { r with sel := c.v } })
    ∧ ∃ t r', exec (.wrData c) s = .next t ∧ indexedRecomputed s t r'
      ∧ r'.sel = r.sel
      ∧ (∀ i : BitVec 3, regGet r'.r i = if i.toNat = r.sel.toNat % 8 then c.v else regGet r.r i)
      ∧ { t with prgBank := s.prgBank, chrBank := s.chrBank }
        = { s.setLast c.sp c.v with family := .indexed r' }

/-- A direct write masks its byte and puts the index, normalised, into the one slot it names; every other slot and
all else but the last bus value stay (R245, R99, R141, R142). It says so of every family: that `WR_DIRECT` acts outside
DIRECT and LATCH too is the model's reading, notes/assumptions/8.md. -/
def Obligations.DirectWriteSetsOneSlot : Prop :=
  ∀ (c : WriteCall) (slot : Slot) (log2 mask : Byte) (s : State),
    (∃ t, exec (.wrDirect c false slot log2 mask) s = .next t
      ∧ (∀ x, slotGet t.prgBank x
          = if x = slot then normalizeBank (c.v &&& mask).toNat s.prgSize (2 ^ log2.toNat)
            else slotGet s.prgBank x)
      ∧ { t with prgBank := s.prgBank } = s.setLast c.sp c.v)
    ∧ ∃ t, exec (.wrDirect c true slot log2 mask) s = .next t
      ∧ (∀ x, slotGet t.chrBank x
          = if x = slot then normalizeBank (c.v &&& mask).toNat s.chrMemSize (2 ^ log2.toNat)
            else slotGet s.chrBank x)
      ∧ { t with chrBank := s.chrBank } = s.setLast c.sp c.v

/-- The side effect of a trampoline sets the latch of its window, the other latch and all else staying
(R224). -/
def Obligations.LatchSideEffect : Prop :=
  ∀ (w st : Byte) (s : State) (r : Latches), SideEffect.wellFormed (.latch w st) = true →
    s.family = .latch r →
    let new : Latch := if st = 1 then .a else .b
    let r' : Latches := ⟨if w = 0 then new else r.latch0, if w = 1 then new else r.latch1⟩
    exec (.seLatch w st) s = .next { s with family := .latch r' }

/-! ### Frames -/

/-- The dispatch tables and the record list change only in the commands that install, wrap, map, construct and
tear down; in particular no bus access changes an entry (R21, R34, R225). -/
def Obligations.TablesFrame : Prop :=
  ∀ (i : Instr) (s t : State), mayWriteTables i = false → exec i s = .next t →
    t.tramp = s.tramp ∧ ∀ sp, (t.bus sp).rd = (s.bus sp).rd ∧ (t.bus sp).wr = (s.bus sp).wr

/-- Every byte of both byte stores and of CHR-RAM reads after any instruction as it read before, but for the one
byte the instruction stores to, which it computes as `storeTarget` or `chrRamTarget` in the state it starts from
(R23, R39, R131, R148, R164). -/
def Obligations.MemoryFrame : Prop :=
  ∀ (i : Instr) (s t : State), exec i s = .next t →
    (∀ sp a, storeTarget s i ≠ some (sp, a) → t.storeByte sp a = s.storeByte sp a)
    ∧ ∀ a, chrRamTarget s i ≠ some a → t.chrRamByte a = s.chrRamByte a

/-- Each group of mapper registers changes only in the instructions its rule names: the bank registers (R26), the
mirror mode (R28), the counter (R29 to R32) and the family state (R35 to R38). -/
def Obligations.RegistersFrame : Prop :=
  ∀ (i : Instr) (s t : State), exec i s = .next t →
    (mayWriteBanks i = false → t.prgBank = s.prgBank ∧ t.chrBank = s.chrBank)
    ∧ (mayWriteMirror i = false → t.mirrorMode = s.mirrorMode)
    ∧ (mayWriteIrq i = false → t.irq = s.irq)
    ∧ (mayWriteFamily i = false → t.family = s.family)

/-- The rest of the state: the line and the sink's calls (R33), the phase (R40), the bound ROM, which only `INIT`
binds and nothing writes (R25, R70), the last bus value of a bus, which only an access of that bus writes (R24),
the response, with the count of responses that the model keeps for its free bits (notes/assumptions/9.md), and the draws;
the parameters, the wired inputs and the waiting commands never change. -/
def Obligations.OtherStateFrame : Prop :=
  ∀ (i : Instr) (s t : State), exec i s = .next t →
    (mayWriteLine i = false → t.irqOut = s.irqOut ∧ t.calls = s.calls)
    ∧ (mayWritePhase i = false → t.phase = s.phase)
    ∧ (i ≠ .init → t.rom = s.rom)
    ∧ (∀ sp, accessSpace i ≠ some sp → (t.bus sp).last = (s.bus sp).last)
    ∧ (mayRespond i = false → t.resp = s.resp ∧ t.answers = s.answers)
    ∧ (mayDraw i = false → t.draws = s.draws)
    ∧ t.params = s.params ∧ t.wires = s.wires ∧ t.port = s.port

/-! ### Invariants -/

/-- Every step keeps the memories and the tables in canonical form and inside their extents (R21, R23, R39). -/
def Obligations.CanonicalFormsAreKept : Prop :=
  ∀ s t : State, s.memoriesWf → s.tablesWf → step s = .next t → t.memoriesWf ∧ t.tablesWf

/-- Every step keeps the trampolines sound: an entry names an existing record, a record only older ones, and in
phases `EMPTY` and `DEAD` no entry refers to the mapper (R133, R226, R228, R360). -/
def Obligations.TrampolinesStaySound : Prop :=
  ∀ s t : State, s.trampsOk → s.lifetimeOk → step s = .next t → t.trampsOk ∧ t.lifetimeOk

/-- Every step keeps the bank registers in range and the installed kinds legal: a stored index is 0 or below the
number of banks of some size a slot can be normalised with, 1 KB to 32 KB or the record's sanitize size (R27, R140,
R141, R142, R143). -/
def Obligations.BanksStayInRange : Prop :=
  ∀ s t : State, s.kindsWf → s.banksOk → step s = .next t → t.kindsWf ∧ t.banksOk

/-- Every step keeps the registers consistent: the counter and the family are those of the variant (R20), `sh_cnt`
is at most 4 (R35), the prescaler is 1 to 341 (R183), and without a counter the line is down (R323). -/
def Obligations.RegistersStayConsistent : Prop :=
  ∀ s t : State, s.registersMatch → s.shiftCountOk → s.prescalerOk → s.lineOk → step s = .next t →
    t.registersMatch ∧ t.shiftCountOk ∧ t.prescalerOk ∧ t.lineOk

/-- The power-on state of every instance meets every invariant above. -/
def Obligations.PowerOnMeetsTheInvariants : Prop := ∀ p : Params, (State.powerOn p).safe

/-- The power-on column of the reset table: the values R45 gives, and the draws it leaves open, which the model
takes as constants it says nothing about (notes/assumptions/1.md and 10.md). -/
def Obligations.PowerOnValues : Prop :=
  ∀ p : Params,
    (∀ sp a, (State.powerOn p).readEntry sp a = ⟨.openBus, .none, 0⟩
      ∧ (State.powerOn p).writeEntry sp a = ⟨.ignore, .none, 0⟩)
    ∧ (∀ sp i, (State.powerOn p).storeByte sp i = Config.powerOnStore sp i)
    ∧ (∀ i, (State.powerOn p).chrRamByte i = Config.powerOnChrRam i)
    ∧ (∀ sp, ((State.powerOn p).bus sp).last = Config.powerOnLast sp)
    ∧ (∀ slot, slotGet (State.powerOn p).prgBank slot = 0 ∧ slotGet (State.powerOn p).chrBank slot = 0)
    ∧ (State.powerOn p).mirrorMode = .horizontal
    ∧ (p.variant.irq = .vrc8 → (State.powerOn p).irq = .vrc8 ⟨0, 0, 0, 341⟩)
    ∧ (p.variant.irq = .vrc16 → (State.powerOn p).irq = .vrc16 ⟨0, 0, 0, 341⟩)
    ∧ (p.variant.irq = .mmc3 → (State.powerOn p).irq = .mmc3 ⟨0, 0, false, false, 0, false, false⟩)
    ∧ (p.variant.family = .serial → (State.powerOn p).family = .serial ⟨0, 0, 0x0C, 0, 0, 0⟩)
    ∧ (p.variant.family = .indexed →
        ∃ r, (State.powerOn p).family = .indexed ⟨0, r⟩ ∧ ∀ i, regGet r i = 0)
    ∧ (p.variant.family = .latch → (State.powerOn p).family = .latch ⟨.undef, .undef⟩)
    ∧ (State.powerOn p).irqOut = false ∧ (State.powerOn p).tramp = [] ∧ (State.powerOn p).phase = .empty
end

