-- ==== Sys2Proof/Laws/Encoding.lean ====
section
/-! SUPPORT. Reading back the fields of packed words: one lemma per field of a command word, a descriptor and
an invocation word, so that a round-trip proof never unfolds a packing. -/

namespace Sys2Proof.Laws

open Sys2Proof

/-- The low part of an appended word. -/
theorem extract_append_low {m n : Nat} (x : BitVec m) (y : BitVec n) (lo len : Nat) (h : lo + len ≤ n) :
    (x ++ y).extractLsb' lo len = y.extractLsb' lo len := by
  ext i hi
  simp only [BitVec.getElem_extractLsb', BitVec.getLsbD_append]
  have : lo + i < n := by omega
  simp [this]

/-- The high part of an appended word. -/
theorem extract_append_high {m n : Nat} (x : BitVec m) (y : BitVec n) (lo len : Nat) (h : n ≤ lo) :
    (x ++ y).extractLsb' lo len = x.extractLsb' (lo - n) len := by
  ext i hi
  simp only [BitVec.getElem_extractLsb', BitVec.getLsbD_append]
  have h1 : ¬ (lo + i < n) := by omega
  have h2 : lo + i - n = lo - n + i := by omega
  simp [h1, h2]

theorem extract_all {n : Nat} (x : BitVec n) : x.extractLsb' 0 n = x := by
  ext i hi
  simp

/-! ### Command words -/

@[simp] theorem fieldsOf_packCommand (f : CommandFields) : fieldsOf (packCommand f) = f := by
  obtain ⟨op, sp, a, b, c, hd⟩ := f
  simp only [fieldsOf, packCommand, CommandFields.mk.injEq]
  refine ⟨?_, ?_, ?_, ?_, ?_, ?_⟩
  · rw [extract_append_high _ _ 80 8 (by decide)]; exact extract_all op
  · rw [extract_append_low _ _ 72 8 (by decide), extract_append_high _ _ 72 8 (by decide)]
    exact extract_all sp
  · rw [extract_append_low _ _ 56 16 (by decide), extract_append_low _ _ 56 16 (by decide),
      extract_append_high _ _ 56 16 (by decide)]
    exact extract_all a
  · rw [extract_append_low _ _ 40 16 (by decide), extract_append_low _ _ 40 16 (by decide),
      extract_append_low _ _ 40 16 (by decide), extract_append_high _ _ 40 16 (by decide)]
    exact extract_all b
  · rw [extract_append_low _ _ 32 8 (by decide), extract_append_low _ _ 32 8 (by decide),
      extract_append_low _ _ 32 8 (by decide), extract_append_low _ _ 32 8 (by decide),
      extract_append_high _ _ 32 8 (by decide)]
    exact extract_all c
  · rw [extract_append_low _ _ 0 32 (by decide), extract_append_low _ _ 0 32 (by decide),
      extract_append_low _ _ 0 32 (by decide), extract_append_low _ _ 0 32 (by decide),
      extract_append_low _ _ 0 32 (by decide)]
    exact extract_all hd

/-! ### Descriptors -/

@[simp] theorem kindOfDescriptor_pack (k f1 f2 f3 : Byte) :
    kindOfDescriptor (packDescriptor k f1 f2 f3) = kindOfFields k f1 f2 f3 := by
  have h1 : (packDescriptor k f1 f2 f3).extractLsb' 24 8 = k := by
    simp only [packDescriptor]
    rw [extract_append_high _ _ 24 8 (by decide)]; exact extract_all k
  have h2 : (packDescriptor k f1 f2 f3).extractLsb' 16 8 = f1 := by
    simp only [packDescriptor]
    rw [extract_append_low _ _ 16 8 (by decide), extract_append_high _ _ 16 8 (by decide)]
    exact extract_all f1
  have h3 : (packDescriptor k f1 f2 f3).extractLsb' 8 8 = f2 := by
    simp only [packDescriptor]
    rw [extract_append_low _ _ 8 8 (by decide), extract_append_low _ _ 8 8 (by decide),
      extract_append_high _ _ 8 8 (by decide)]
    exact extract_all f2
  have h4 : (packDescriptor k f1 f2 f3).extractLsb' 0 8 = f3 := by
    simp only [packDescriptor]
    rw [extract_append_low _ _ 0 8 (by decide), extract_append_low _ _ 0 8 (by decide),
      extract_append_low _ _ 0 8 (by decide)]
    exact extract_all f3
  simp only [kindOfDescriptor, h1, h2, h3, h4]

@[simp] theorem slotOfByte_byteOfSlot (s : Slot) : slotOfByte (byteOfSlot s) = s := by
  simp only [slotOfByte, byteOfSlot]
  rw [extract_append_low _ _ 0 5 (by decide)]; exact extract_all s

@[simp] theorem slotOfByte_byteOfSelSlot (b : Bool) (s : Slot) : slotOfByte (byteOfSelSlot b s) = s := by
  simp only [slotOfByte, byteOfSelSlot]
  rw [extract_append_low _ _ 0 5 (by decide), extract_append_low _ _ 0 5 (by decide)]; exact extract_all s

@[simp] theorem selector_byteOfSelSlot (b : Bool) (s : Slot) : (byteOfSelSlot b s).getLsbD 7 = b := by
  revert b s; decide

@[simp] theorem selector_byteOfSelSlot_getElem (b : Bool) (s : Slot) : (byteOfSelSlot b s)[7] = b :=
  selector_byteOfSelSlot b s

/-! ### Invocation words -/

/-- The 64 low bits of an invocation word. -/
theorem packCall_low (hd : BitVec 32) (sp : Space) (param : Addr) (v : Byte) (k : Nat) :
    BitVec.ofNat 64 (packCall hd sp param v k) = spaceCode sp ++ (v ++ (param ++ hd)) := by
  apply BitVec.eq_of_toNat_eq
  have h := (spaceCode sp ++ (v ++ (param ++ hd))).isLt
  simp only [packCall, BitVec.toNat_ofNat]
  omega

/-- The bits above them. -/
theorem packCall_high (hd : BitVec 32) (sp : Space) (param : Addr) (v : Byte) (k : Nat) :
    packCall hd sp param v k / 2 ^ 64 = k := by
  have h := (spaceCode sp ++ (v ++ (param ++ hd))).isLt
  simp only [packCall]
  omega

@[simp] theorem spaceOfByte_spaceCode (sp : Space) : spaceOfByte (spaceCode sp) = .ok sp := by
  cases sp <;> rfl

/-! ### Whole formats -/

theorem kindOfDescriptor_read (k : ReadKind) : kindOfDescriptor (encodeReadKind k) = .ok (.read k) := by
  cases k with
  | tramp se => cases se; simp [encodeReadKind, packTramp, kindOfFields, sideEffectOf, Except.map]
  | _ => simp [encodeReadKind, kindOfFields]

theorem kindOfDescriptor_write (k : WriteKind) : kindOfDescriptor (encodeWriteKind k) = .ok (.write k) := by
  cases k with
  | tramp se => cases se; simp [encodeWriteKind, packTramp, kindOfFields, sideEffectOf, Except.map]
  | _ => simp [encodeWriteKind, kindOfFields]

theorem kindOfDescriptor_kind (k : Kind) : kindOfDescriptor (encodeKind k) = .ok k := by
  cases k <;> simp [encodeKind, kindOfDescriptor_read, kindOfDescriptor_write]

theorem mirrorOfByte_code (m : MirrorMode) : mirrorOfByte (0#5 ++ mirrorCode m) = .ok m := by
  cases m <;> rfl

theorem decode_encodeFields (f : CommandFields) : decode (encodeFields f) = commandOfFields f := by
  simp [decode, encodeFields, decodeCommand]

/-- The fields of an invocation word. -/
theorem packCall_fields (hd : BitVec 32) (sp : Space) (param : Addr) (v : Byte) :
    (spaceCode sp ++ (v ++ (param ++ hd))).extractLsb' 56 8 = spaceCode sp
    ∧ (spaceCode sp ++ (v ++ (param ++ hd))).extractLsb' 48 8 = v
    ∧ (spaceCode sp ++ (v ++ (param ++ hd))).extractLsb' 32 16 = param
    ∧ (spaceCode sp ++ (v ++ (param ++ hd))).extractLsb' 0 32 = hd := by
  refine ⟨?_, ?_, ?_, ?_⟩
  · rw [extract_append_high _ _ 56 8 (by decide)]; exact extract_all _
  · rw [extract_append_low _ _ 48 8 (by decide), extract_append_high _ _ 48 8 (by decide)]
    exact extract_all _
  · rw [extract_append_low _ _ 32 16 (by decide), extract_append_low _ _ 32 16 (by decide),
      extract_append_high _ _ 32 16 (by decide)]
    exact extract_all _
  · rw [extract_append_low _ _ 0 32 (by decide), extract_append_low _ _ 0 32 (by decide),
      extract_append_low _ _ 0 32 (by decide)]
    exact extract_all _

/-- The byte of a packed command that holds its operation number. -/
theorem packCommand_op (f : CommandFields) : (packCommand f).toNat / 2 ^ 80 % 256 = f.op.toNat := by
  have h := congrArg (fun g => g.op.toNat) (fieldsOf_packCommand f)
  simpa [fieldsOf, BitVec.extractLsb'_toNat, Nat.shiftRight_eq_div_pow] using h

/-- The byte of an invocation word that holds its kind code. -/
theorem packCall_kind (k f1 f2 f3 : Byte) (sp : Space) (param : Addr) (v : Byte) (n : Nat) :
    packCall (packDescriptor k f1 f2 f3) sp param v n / 2 ^ 24 % 256 = k.toNat := by
  have h1 : (spaceCode sp ++ (v ++ (param ++ packDescriptor k f1 f2 f3))).extractLsb' 24 8 = k := by
    rw [extract_append_low _ _ 24 8 (by decide), extract_append_low _ _ 24 8 (by decide),
      extract_append_low _ _ 24 8 (by decide)]
    simp only [packDescriptor]
    rw [extract_append_high _ _ 24 8 (by decide)]; exact extract_all k
  have h2 := congrArg BitVec.toNat h1
  simp only [BitVec.extractLsb'_toNat, Nat.shiftRight_eq_div_pow] at h2
  simp only [packCall]
  omega

end Sys2Proof.Laws
end

