-- ==== Sys2Proof/Laws/Memory.lean ====
section
/-! SUPPORT. What the plain-data containers do: reading after writing, and that every operation keeps the
canonical form. -/

namespace Sys2Proof.Laws

open Sys2Proof Sys2Proof.Machine

/-! ### Association lists: reading -/

@[simp] theorem assocGet_nil {α : Type} (a : Nat) : assocGet ([] : List (Nat × α)) a = none := rfl

theorem assocGet_insert {α : Type} (l : List (Nat × α)) (a b : Nat) (v : α) :
    assocGet (assocInsert l a v) b = if b = a then some v else assocGet l b := by
  induction l with
  | nil => rfl
  | cons e t ih =>
    obtain ⟨k, w⟩ := e
    unfold assocInsert
    split
    · rfl
    · split
      · next h => subst h; simp only [assocGet]; split <;> rfl
      · next h1 h2 =>
        simp only [assocGet, ih]
        by_cases hb : b = k
        · subst hb; simp [Ne.symm h2]
        · simp [hb]

theorem assocGet_filter_key {α : Type} (p : Nat → Bool) (l : List (Nat × α)) (b : Nat) :
    assocGet (l.filter (fun e => p e.1)) b = if p b then assocGet l b else none := by
  induction l with
  | nil => simp
  | cons e t ih =>
    obtain ⟨k, w⟩ := e
    by_cases hk : p k = true
    · simp only [List.filter_cons, hk, if_true, assocGet, ih]
      by_cases hb : b = k
      · subst hb; simp [hk]
      · simp [hb]
    · by_cases hb : b = k
      · subst hb; simp [hk, ih]
      · simp [hk, assocGet, ih, hb]

theorem assocGet_erase {α : Type} (l : List (Nat × α)) (a b : Nat) :
    assocGet (assocErase l a) b = if b = a then none else assocGet l b := by
  have h := assocGet_filter_key (fun k => k != a) l b
  simp only [assocErase, h]
  by_cases hb : b = a <;> simp [hb]

theorem assocGet_below {α : Type} (lo : Nat) (l : List (Nat × α)) (b : Nat) :
    assocGet (assocBelow lo l) b = if b < lo then assocGet l b else none := by
  simpa [assocBelow] using assocGet_filter_key (fun k => decide (k < lo)) l b

theorem assocGet_from {α : Type} (lo : Nat) (l : List (Nat × α)) (b : Nat) :
    assocGet (assocFrom lo l) b = if lo ≤ b then assocGet l b else none := by
  simpa [assocFrom] using assocGet_filter_key (fun k => decide (lo ≤ k)) l b

theorem assocGet_append {α : Type} (l t : List (Nat × α)) (b : Nat) :
    assocGet (l ++ t) b = (assocGet l b).or (assocGet t b) := by
  induction l with
  | nil => rfl
  | cons e l ih =>
    obtain ⟨k, w⟩ := e
    simp only [List.cons_append, assocGet, ih]
    split <;> rfl

theorem assocGet_mem {α : Type} {l : List (Nat × α)} {a : Nat} {v : α} (h : assocGet l a = some v) :
    (a, v) ∈ l := by
  induction l with
  | nil => simp at h
  | cons e t ih =>
    obtain ⟨k, w⟩ := e
    simp only [assocGet] at h
    split at h
    · next hk => cases h; subst hk; exact List.mem_cons_self
    · exact List.mem_cons_of_mem _ (ih h)

theorem assocSorted_tail {α : Type} {e : Nat × α} {t : List (Nat × α)} (h : assocSorted (e :: t)) :
    assocSorted t ∧ ∀ x ∈ t, e.1 < x.1 := by
  simp only [assocSorted, List.map_cons, List.pairwise_cons] at h
  exact ⟨h.2, fun x hx => h.1 x.1 (List.mem_map_of_mem hx)⟩

theorem assocSorted_cons {α : Type} {e : Nat × α} {t : List (Nat × α)} (h : assocSorted t)
    (hlt : ∀ x ∈ t, e.1 < x.1) : assocSorted (e :: t) := by
  simp only [assocSorted, List.map_cons, List.pairwise_cons]
  refine ⟨fun x hx => ?_, h⟩
  obtain ⟨y, hy, rfl⟩ := List.mem_map.mp hx
  exact hlt y hy

theorem assocGet_of_mem {α : Type} {l : List (Nat × α)} (hs : assocSorted l) {a : Nat} {v : α}
    (h : (a, v) ∈ l) : assocGet l a = some v := by
  induction l with
  | nil => simp at h
  | cons e t ih =>
    obtain ⟨k, w⟩ := e
    obtain ⟨hst, hlt⟩ := assocSorted_tail hs
    simp only [assocGet]
    rcases List.mem_cons.mp h with h | h
    · cases h; simp
    · have : k < a := hlt _ h
      have hne : ¬ a = k := by omega
      simp [hne, ih hst h]

/-- A filter on whole entries keeps or drops the one entry of a key. -/
theorem assocGet_filter {α : Type} {l : List (Nat × α)} (hs : assocSorted l) (p : α → Bool) (a : Nat) :
    assocGet (l.filter (fun e => p e.2)) a = (assocGet l a).filter p := by
  induction l with
  | nil => rfl
  | cons e t ih =>
    obtain ⟨k, w⟩ := e
    obtain ⟨hst, hlt⟩ := assocSorted_tail hs
    by_cases hp : p w = true
    · simp only [List.filter_cons, hp, if_true, assocGet, ih hst]
      split
      · simp [Option.filter, hp]
      · rfl
    · by_cases ha : a = k
      · subst ha
        have hn : assocGet t a = none := by
          cases hg : assocGet t a with
          | none => rfl
          | some v => exact absurd (hlt _ (assocGet_mem hg)) (by simp)
        simp [assocGet, ih hst, hn, Option.filter, hp]
      · simp [assocGet, ih hst, hp, ha]

/-! ### Association lists: canonical form -/

theorem mem_assocInsert {α : Type} {l : List (Nat × α)} {a : Nat} {v : α} {e : Nat × α}
    (h : e ∈ assocInsert l a v) : e = (a, v) ∨ e ∈ l := by
  induction l with
  | nil => exact Or.inl (by simpa [assocInsert] using h)
  | cons x t ih =>
    obtain ⟨k, w⟩ := x
    unfold assocInsert at h
    split at h
    · simpa using h
    · split at h
      · rcases List.mem_cons.mp h with h | h
        · exact Or.inl h
        · exact Or.inr (List.mem_cons_of_mem _ h)
      · rcases List.mem_cons.mp h with h | h
        · exact Or.inr (h ▸ List.mem_cons_self)
        · exact (ih h).imp_right (List.mem_cons_of_mem _)

theorem assocInsert_sorted {α : Type} {l : List (Nat × α)} (hs : assocSorted l) (a : Nat) (v : α) :
    assocSorted (assocInsert l a v) := by
  induction l with
  | nil => exact List.pairwise_singleton _ _
  | cons x t ih =>
    obtain ⟨k, w⟩ := x
    obtain ⟨hst, hlt⟩ := assocSorted_tail hs
    unfold assocInsert
    split
    · next hak =>
      refine assocSorted_cons hs fun y hy => ?_
      rcases List.mem_cons.mp hy with rfl | hy
      · exact hak
      · have := hlt y hy; simp only at this ⊢; omega
    · split
      · next _ hak => subst hak; exact assocSorted_cons hst hlt
      · next h1 h2 =>
        refine assocSorted_cons (ih hst) fun y hy => ?_
        rcases mem_assocInsert hy with rfl | hy
        · simp only; omega
        · exact hlt y hy

theorem filter_sorted {α : Type} {l : List (Nat × α)} (hs : assocSorted l) (p : Nat × α → Bool) :
    assocSorted (l.filter p) :=
  List.Pairwise.sublist ((List.filter_sublist (p := p)).map Prod.fst) hs

/-! ### Memories -/

theorem memGet_memPut (m : Memory) (a b : Nat) (v : Byte) :
    memGet (memPut m a v) b = if b = a then some v else memGet m b :=
  assocGet_insert m a b v

/-- The one operation that changes a memory keeps its canonical form. -/
theorem memPut_wf {size : Nat} {m : Memory} (h : Memory.wf size m) {a : Nat} (ha : a < size) (v : Byte) :
    Memory.wf size (memPut m a v) :=
  ⟨assocInsert_sorted h.1 a v, fun e he => (mem_assocInsert he).elim (fun h' => h' ▸ ha) (h.2 e)⟩

theorem memory_empty_wf (size : Nat) : Memory.wf size [] :=
  ⟨List.Pairwise.nil, fun _ he => absurd he (by simp)⟩

/-! ### Dispatch tables -/

theorem tableGet_tablePut {κ : Type} [DecidableEq κ] (d : HandlerRef κ) (t : Table κ) (a b : Nat)
    (h : HandlerRef κ) : tableGet d (tablePut d t a h) b = if b = a then h else tableGet d t b := by
  unfold tablePut tableGet
  split
  · next hd => subst hd; rw [assocGet_erase]; split <;> rfl
  · rw [assocGet_insert]; split <;> rfl

theorem assocGet_filterMap_range {α : Type} (f : Nat → Option α) (lo n b : Nat) :
    assocGet ((List.range' lo n).filterMap (fun a => (f a).map (fun v => (a, v)))) b
      = if lo ≤ b ∧ b < lo + n then f b else none := by
  induction n generalizing lo with
  | zero =>
    have : ¬ (lo ≤ b ∧ b < lo + 0) := by omega
    rw [if_neg this]; rfl
  | succ n ih =>
    rw [List.range'_succ, List.filterMap_cons]
    by_cases hb : b = lo
    · subst hb
      rw [if_pos ⟨Nat.le_refl _, by omega⟩]
      cases hf : f b with
      | none => rw [Option.map_none]; simp only; rw [ih, if_neg (by omega)]
      | some v => simp [assocGet]
    · have hc : (lo + 1 ≤ b ∧ b < lo + 1 + n) ↔ (lo ≤ b ∧ b < lo + (n + 1)) := by omega
      cases hf : f lo with
      | none => rw [Option.map_none]; simp only; rw [ih]; simp only [hc]
      | some v => simp only [Option.map_some, assocGet, hb, if_false]; rw [ih]; simp only [hc]

theorem tableFill_middle {κ : Type} [DecidableEq κ] (d : HandlerRef κ) (f : Nat → HandlerRef κ) :
    (fun a => if f a = d then none else some (a, f a))
      = fun a => (if f a = d then none else some (f a)).map (fun v => (a, v)) := by
  funext a
  split <;> rfl

theorem tableGet_tableFill {κ : Type} [DecidableEq κ] (d : HandlerRef κ) (t : Table κ) (lo n : Nat)
    (f : Nat → HandlerRef κ) (b : Nat) :
    tableGet d (tableFill d t lo n f) b = if lo ≤ b ∧ b < lo + n then f b else tableGet d t b := by
  unfold tableGet tableFill
  rw [tableFill_middle, assocGet_append, assocGet_append, assocGet_below, assocGet_from,
    assocGet_filterMap_range (fun a => if f a = d then none else some (f a))]
  by_cases h1 : b < lo
  · have h2 : ¬ (lo ≤ b ∧ b < lo + n) := by omega
    have h3 : ¬ (lo + n ≤ b) := by omega
    simp [h1, h2, h3]
  · by_cases h2 : b < lo + n
    · have h3 : lo ≤ b ∧ b < lo + n := by omega
      have h4 : ¬ (lo + n ≤ b) := by omega
      simp only [h1, h3, h4, if_false, if_true, and_self]
      by_cases hd : f b = d <;> simp [hd]
    · have h3 : ¬ (lo ≤ b ∧ b < lo + n) := by omega
      have h4 : lo + n ≤ b := by omega
      simp [h1, h3, h4]

theorem tableGet_dropTramps {κ : Type} {d : HandlerRef κ} {t : Table κ} (hs : assocSorted t)
    (hd : ctxIsTramp d.ctx = false) (a : Nat) :
    tableGet d (tableDropTramps t) a
      = if ctxIsTramp (tableGet d t a).ctx then d else tableGet d t a := by
  unfold tableGet tableDropTramps
  rw [assocGet_filter hs (fun h => !ctxIsTramp h.ctx)]
  cases hg : assocGet t a with
  | none => simp [hd]
  | some h => cases hc : ctxIsTramp h.ctx <;> simp [Option.filter, hc]

theorem tableGet_release {κ : Type} {d : HandlerRef κ} {t : Table κ} (hs : assocSorted t)
    (hd : ctxRefersToMapper d.ctx = false) (a : Nat) :
    tableGet d (tableRelease t) a
      = if ctxRefersToMapper (tableGet d t a).ctx then d else tableGet d t a := by
  unfold tableGet tableRelease
  rw [assocGet_filter hs (fun h => !ctxRefersToMapper h.ctx)]
  cases hg : assocGet t a with
  | none => simp [hd]
  | some h => cases hc : ctxRefersToMapper h.ctx <;> simp [Option.filter, hc]

theorem tablePut_wf {κ : Type} [DecidableEq κ] {d : HandlerRef κ} {size : Nat} {t : Table κ}
    (h : tableWf d size t) {a : Nat} (ha : a < size) (x : HandlerRef κ) :
    tableWf d size (tablePut d t a x) := by
  unfold tablePut
  split
  · exact ⟨filter_sorted h.1 _, fun e he => h.2 e (List.mem_of_mem_filter he)⟩
  · next hx =>
    refine ⟨assocInsert_sorted h.1 a x, fun e he => ?_⟩
    rcases mem_assocInsert he with rfl | he
    · exact ⟨ha, hx⟩
    · exact h.2 e he

theorem filter_tableWf {κ : Type} {d : HandlerRef κ} {size : Nat} {t : Table κ} (h : tableWf d size t)
    (p : Nat × HandlerRef κ → Bool) : tableWf d size (t.filter p) :=
  ⟨filter_sorted h.1 p, fun e he => h.2 e (List.mem_of_mem_filter he)⟩

/-- An entry of a filled table is an old one outside the range or a new one inside it. -/
theorem mem_tableFill {κ : Type} [DecidableEq κ] {d : HandlerRef κ} {t : Table κ} {lo n : Nat}
    {f : Nat → HandlerRef κ} {e : Nat × HandlerRef κ} (h : e ∈ tableFill d t lo n f) :
    e ∈ t ∨ (lo ≤ e.1 ∧ e.1 < lo + n ∧ e.2 = f e.1 ∧ e.2 ≠ d) := by
  unfold tableFill at h
  rcases List.mem_append.mp h with h | h
  · rcases List.mem_append.mp h with h | h
    · exact Or.inl (List.mem_of_mem_filter h)
    · obtain ⟨a, ha, hfa⟩ := List.mem_filterMap.mp h
      right
      by_cases hd : f a = d
      · simp [hd] at hfa
      · simp only [hd, if_false, Option.some.injEq] at hfa
        subst hfa
        simp only [List.mem_range'_1] at ha
        exact ⟨ha.1, ha.2, rfl, hd⟩
  · exact Or.inl (List.mem_of_mem_filter h)

theorem filterMap_range_sorted {α : Type} (f : Nat → Option α) (lo n : Nat) :
    assocSorted ((List.range' lo n).filterMap (fun a => (f a).map (fun v => (a, v))))
    ∧ ∀ e ∈ (List.range' lo n).filterMap (fun a => (f a).map (fun v => (a, v))), lo ≤ e.1 ∧ e.1 < lo + n := by
  induction n generalizing lo with
  | zero => exact ⟨List.Pairwise.nil, fun _ he => absurd he (by simp)⟩
  | succ n ih =>
    obtain ⟨h1, h2⟩ := ih (lo + 1)
    rw [List.range'_succ, List.filterMap_cons]
    cases hf : f lo with
    | none =>
      simp only [Option.map_none]
      exact ⟨h1, fun e he => by have := h2 e he; omega⟩
    | some v =>
      simp only [Option.map_some]
      refine ⟨assocSorted_cons h1 fun x hx => ?_, fun e he => ?_⟩
      · have := h2 x hx; simp only; omega
      · rcases List.mem_cons.mp he with rfl | he
        · simp only; omega
        · have := h2 e he; omega

theorem append_sorted {α : Type} {l t : List (Nat × α)} (hl : assocSorted l) (ht : assocSorted t)
    (h : ∀ x ∈ l, ∀ y ∈ t, x.1 < y.1) : assocSorted (l ++ t) := by
  simp only [assocSorted, List.map_append, List.pairwise_append]
  refine ⟨hl, ht, fun a ha b hb => ?_⟩
  obtain ⟨x, hx, rfl⟩ := List.mem_map.mp ha
  obtain ⟨y, hy, rfl⟩ := List.mem_map.mp hb
  exact h x hx y hy

theorem tableFill_wf {κ : Type} [DecidableEq κ] {d : HandlerRef κ} {size : Nat} {t : Table κ}
    (h : tableWf d size t) {lo n : Nat} (hn : lo + n ≤ size) (f : Nat → HandlerRef κ) :
    tableWf d size (tableFill d t lo n f) := by
  refine ⟨?_, fun e he => ?_⟩
  · unfold tableFill
    rw [tableFill_middle]
    obtain ⟨h1, h2⟩ := filterMap_range_sorted (fun a => if f a = d then none else some (f a)) lo n
    refine append_sorted (append_sorted (filter_sorted h.1 _) h1 fun x hx y hy => ?_)
      (filter_sorted h.1 _) fun x hx y hy => ?_
    · have hx' : x.1 < lo := by simpa [assocBelow] using (List.mem_filter.mp hx).2
      have := h2 y hy
      omega
    · have hy' : lo + n ≤ y.1 := by simpa [assocFrom] using (List.mem_filter.mp hy).2
      rcases List.mem_append.mp hx with hx | hx
      · have hx' : x.1 < lo := by simpa [assocBelow] using (List.mem_filter.mp hx).2
        omega
      · have := h2 x hx; omega
  · rcases mem_tableFill he with he | ⟨_, h2, _, h4⟩
    · exact h.2 e he
    · exact ⟨by omega, h4⟩

/-! ### ROM byte sequences -/

theorem runsAt_isSome (r : ByteRuns) (i : Nat) : (runsAt r i).isSome = decide (i < runsLength r) := by
  induction r generalizing i with
  | nil => simp [runsAt, runsLength]
  | cons e t ih =>
    obtain ⟨n, b⟩ := e
    unfold runsAt runsLength
    split
    · next h => simp; omega
    · next h =>
      rw [ih]
      exact decide_eq_decide.mpr (by omega)

theorem runsAt_none (r : ByteRuns) (i : Nat) (h : runsLength r ≤ i) : runsAt r i = none := by
  have := runsAt_isSome r i
  cases hr : runsAt r i with
  | none => rfl
  | some b => rw [hr] at this; simp at this; omega

end Sys2Proof.Laws
end

