-- ==== Sys2Proof/Laws/State.lean ====
section
/-! SUPPORT. One lemma per field per update of the state, so that no later proof unfolds a record update. -/

namespace Sys2Proof.Laws

open Sys2Proof Sys2Proof.Machine

/-! ### `setBus` -/

@[simp] theorem setBus_params (s : State) (sp : Space) (b : Bus) : (s.setBus sp b).params = s.params := by cases sp <;> rfl
@[simp] theorem setBus_wires (s : State) (sp : Space) (b : Bus) : (s.setBus sp b).wires = s.wires := by cases sp <;> rfl
@[simp] theorem setBus_rom (s : State) (sp : Space) (b : Bus) : (s.setBus sp b).rom = s.rom := by cases sp <;> rfl
@[simp] theorem setBus_prgBank (s : State) (sp : Space) (b : Bus) : (s.setBus sp b).prgBank = s.prgBank := by cases sp <;> rfl
@[simp] theorem setBus_chrBank (s : State) (sp : Space) (b : Bus) : (s.setBus sp b).chrBank = s.chrBank := by cases sp <;> rfl
@[simp] theorem setBus_mirrorMode (s : State) (sp : Space) (b : Bus) : (s.setBus sp b).mirrorMode = s.mirrorMode := by cases sp <;> rfl
@[simp] theorem setBus_irq (s : State) (sp : Space) (b : Bus) : (s.setBus sp b).irq = s.irq := by cases sp <;> rfl
@[simp] theorem setBus_irqOut (s : State) (sp : Space) (b : Bus) : (s.setBus sp b).irqOut = s.irqOut := by cases sp <;> rfl
@[simp] theorem setBus_tramp (s : State) (sp : Space) (b : Bus) : (s.setBus sp b).tramp = s.tramp := by cases sp <;> rfl
@[simp] theorem setBus_family (s : State) (sp : Space) (b : Bus) : (s.setBus sp b).family = s.family := by cases sp <;> rfl
@[simp] theorem setBus_chrRam (s : State) (sp : Space) (b : Bus) : (s.setBus sp b).chrRam = s.chrRam := by cases sp <;> rfl
@[simp] theorem setBus_phase (s : State) (sp : Space) (b : Bus) : (s.setBus sp b).phase = s.phase := by cases sp <;> rfl
@[simp] theorem setBus_draws (s : State) (sp : Space) (b : Bus) : (s.setBus sp b).draws = s.draws := by cases sp <;> rfl
@[simp] theorem setBus_answers (s : State) (sp : Space) (b : Bus) : (s.setBus sp b).answers = s.answers := by cases sp <;> rfl
@[simp] theorem setBus_port (s : State) (sp : Space) (b : Bus) : (s.setBus sp b).port = s.port := by cases sp <;> rfl
@[simp] theorem setBus_resp (s : State) (sp : Space) (b : Bus) : (s.setBus sp b).resp = s.resp := by cases sp <;> rfl
@[simp] theorem setBus_calls (s : State) (sp : Space) (b : Bus) : (s.setBus sp b).calls = s.calls := by cases sp <;> rfl

/-! ### `setLast` -/

@[simp] theorem setLast_params (s : State) (sp : Space) (v : Byte) : (s.setLast sp v).params = s.params := by cases sp <;> rfl
@[simp] theorem setLast_wires (s : State) (sp : Space) (v : Byte) : (s.setLast sp v).wires = s.wires := by cases sp <;> rfl
@[simp] theorem setLast_rom (s : State) (sp : Space) (v : Byte) : (s.setLast sp v).rom = s.rom := by cases sp <;> rfl
@[simp] theorem setLast_prgBank (s : State) (sp : Space) (v : Byte) : (s.setLast sp v).prgBank = s.prgBank := by cases sp <;> rfl
@[simp] theorem setLast_chrBank (s : State) (sp : Space) (v : Byte) : (s.setLast sp v).chrBank = s.chrBank := by cases sp <;> rfl
@[simp] theorem setLast_mirrorMode (s : State) (sp : Space) (v : Byte) : (s.setLast sp v).mirrorMode = s.mirrorMode := by cases sp <;> rfl
@[simp] theorem setLast_irq (s : State) (sp : Space) (v : Byte) : (s.setLast sp v).irq = s.irq := by cases sp <;> rfl
@[simp] theorem setLast_irqOut (s : State) (sp : Space) (v : Byte) : (s.setLast sp v).irqOut = s.irqOut := by cases sp <;> rfl
@[simp] theorem setLast_tramp (s : State) (sp : Space) (v : Byte) : (s.setLast sp v).tramp = s.tramp := by cases sp <;> rfl
@[simp] theorem setLast_family (s : State) (sp : Space) (v : Byte) : (s.setLast sp v).family = s.family := by cases sp <;> rfl
@[simp] theorem setLast_chrRam (s : State) (sp : Space) (v : Byte) : (s.setLast sp v).chrRam = s.chrRam := by cases sp <;> rfl
@[simp] theorem setLast_phase (s : State) (sp : Space) (v : Byte) : (s.setLast sp v).phase = s.phase := by cases sp <;> rfl
@[simp] theorem setLast_draws (s : State) (sp : Space) (v : Byte) : (s.setLast sp v).draws = s.draws := by cases sp <;> rfl
@[simp] theorem setLast_answers (s : State) (sp : Space) (v : Byte) : (s.setLast sp v).answers = s.answers := by cases sp <;> rfl
@[simp] theorem setLast_port (s : State) (sp : Space) (v : Byte) : (s.setLast sp v).port = s.port := by cases sp <;> rfl
@[simp] theorem setLast_resp (s : State) (sp : Space) (v : Byte) : (s.setLast sp v).resp = s.resp := by cases sp <;> rfl
@[simp] theorem setLast_calls (s : State) (sp : Space) (v : Byte) : (s.setLast sp v).calls = s.calls := by cases sp <;> rfl

/-! ### `putReadEntry` -/

@[simp] theorem putReadEntry_params (s : State) (sp : Space) (a : Addr) (h : ReadRef) : (s.putReadEntry sp a h).params = s.params := by cases sp <;> rfl
@[simp] theorem putReadEntry_wires (s : State) (sp : Space) (a : Addr) (h : ReadRef) : (s.putReadEntry sp a h).wires = s.wires := by cases sp <;> rfl
@[simp] theorem putReadEntry_rom (s : State) (sp : Space) (a : Addr) (h : ReadRef) : (s.putReadEntry sp a h).rom = s.rom := by cases sp <;> rfl
@[simp] theorem putReadEntry_prgBank (s : State) (sp : Space) (a : Addr) (h : ReadRef) : (s.putReadEntry sp a h).prgBank = s.prgBank := by cases sp <;> rfl
@[simp] theorem putReadEntry_chrBank (s : State) (sp : Space) (a : Addr) (h : ReadRef) : (s.putReadEntry sp a h).chrBank = s.chrBank := by cases sp <;> rfl
@[simp] theorem putReadEntry_mirrorMode (s : State) (sp : Space) (a : Addr) (h : ReadRef) : (s.putReadEntry sp a h).mirrorMode = s.mirrorMode := by cases sp <;> rfl
@[simp] theorem putReadEntry_irq (s : State) (sp : Space) (a : Addr) (h : ReadRef) : (s.putReadEntry sp a h).irq = s.irq := by cases sp <;> rfl
@[simp] theorem putReadEntry_irqOut (s : State) (sp : Space) (a : Addr) (h : ReadRef) : (s.putReadEntry sp a h).irqOut = s.irqOut := by cases sp <;> rfl
@[simp] theorem putReadEntry_tramp (s : State) (sp : Space) (a : Addr) (h : ReadRef) : (s.putReadEntry sp a h).tramp = s.tramp := by cases sp <;> rfl
@[simp] theorem putReadEntry_family (s : State) (sp : Space) (a : Addr) (h : ReadRef) : (s.putReadEntry sp a h).family = s.family := by cases sp <;> rfl
@[simp] theorem putReadEntry_chrRam (s : State) (sp : Space) (a : Addr) (h : ReadRef) : (s.putReadEntry sp a h).chrRam = s.chrRam := by cases sp <;> rfl
@[simp] theorem putReadEntry_phase (s : State) (sp : Space) (a : Addr) (h : ReadRef) : (s.putReadEntry sp a h).phase = s.phase := by cases sp <;> rfl
@[simp] theorem putReadEntry_draws (s : State) (sp : Space) (a : Addr) (h : ReadRef) : (s.putReadEntry sp a h).draws = s.draws := by cases sp <;> rfl
@[simp] theorem putReadEntry_answers (s : State) (sp : Space) (a : Addr) (h : ReadRef) : (s.putReadEntry sp a h).answers = s.answers := by cases sp <;> rfl
@[simp] theorem putReadEntry_port (s : State) (sp : Space) (a : Addr) (h : ReadRef) : (s.putReadEntry sp a h).port = s.port := by cases sp <;> rfl
@[simp] theorem putReadEntry_resp (s : State) (sp : Space) (a : Addr) (h : ReadRef) : (s.putReadEntry sp a h).resp = s.resp := by cases sp <;> rfl
@[simp] theorem putReadEntry_calls (s : State) (sp : Space) (a : Addr) (h : ReadRef) : (s.putReadEntry sp a h).calls = s.calls := by cases sp <;> rfl

/-! ### `putWriteEntry` -/

@[simp] theorem putWriteEntry_params (s : State) (sp : Space) (a : Addr) (h : WriteRef) : (s.putWriteEntry sp a h).params = s.params := by cases sp <;> rfl
@[simp] theorem putWriteEntry_wires (s : State) (sp : Space) (a : Addr) (h : WriteRef) : (s.putWriteEntry sp a h).wires = s.wires := by cases sp <;> rfl
@[simp] theorem putWriteEntry_rom (s : State) (sp : Space) (a : Addr) (h : WriteRef) : (s.putWriteEntry sp a h).rom = s.rom := by cases sp <;> rfl
@[simp] theorem putWriteEntry_prgBank (s : State) (sp : Space) (a : Addr) (h : WriteRef) : (s.putWriteEntry sp a h).prgBank = s.prgBank := by cases sp <;> rfl
@[simp] theorem putWriteEntry_chrBank (s : State) (sp : Space) (a : Addr) (h : WriteRef) : (s.putWriteEntry sp a h).chrBank = s.chrBank := by cases sp <;> rfl
@[simp] theorem putWriteEntry_mirrorMode (s : State) (sp : Space) (a : Addr) (h : WriteRef) : (s.putWriteEntry sp a h).mirrorMode = s.mirrorMode := by cases sp <;> rfl
@[simp] theorem putWriteEntry_irq (s : State) (sp : Space) (a : Addr) (h : WriteRef) : (s.putWriteEntry sp a h).irq = s.irq := by cases sp <;> rfl
@[simp] theorem putWriteEntry_irqOut (s : State) (sp : Space) (a : Addr) (h : WriteRef) : (s.putWriteEntry sp a h).irqOut = s.irqOut := by cases sp <;> rfl
@[simp] theorem putWriteEntry_tramp (s : State) (sp : Space) (a : Addr) (h : WriteRef) : (s.putWriteEntry sp a h).tramp = s.tramp := by cases sp <;> rfl
@[simp] theorem putWriteEntry_family (s : State) (sp : Space) (a : Addr) (h : WriteRef) : (s.putWriteEntry sp a h).family = s.family := by cases sp <;> rfl
@[simp] theorem putWriteEntry_chrRam (s : State) (sp : Space) (a : Addr) (h : WriteRef) : (s.putWriteEntry sp a h).chrRam = s.chrRam := by cases sp <;> rfl
@[simp] theorem putWriteEntry_phase (s : State) (sp : Space) (a : Addr) (h : WriteRef) : (s.putWriteEntry sp a h).phase = s.phase := by cases sp <;> rfl
@[simp] theorem putWriteEntry_draws (s : State) (sp : Space) (a : Addr) (h : WriteRef) : (s.putWriteEntry sp a h).draws = s.draws := by cases sp <;> rfl
@[simp] theorem putWriteEntry_answers (s : State) (sp : Space) (a : Addr) (h : WriteRef) : (s.putWriteEntry sp a h).answers = s.answers := by cases sp <;> rfl
@[simp] theorem putWriteEntry_port (s : State) (sp : Space) (a : Addr) (h : WriteRef) : (s.putWriteEntry sp a h).port = s.port := by cases sp <;> rfl
@[simp] theorem putWriteEntry_resp (s : State) (sp : Space) (a : Addr) (h : WriteRef) : (s.putWriteEntry sp a h).resp = s.resp := by cases sp <;> rfl
@[simp] theorem putWriteEntry_calls (s : State) (sp : Space) (a : Addr) (h : WriteRef) : (s.putWriteEntry sp a h).calls = s.calls := by cases sp <;> rfl

/-! ### `fillEntries` -/

@[simp] theorem fillEntries_params (s : State) (sp : Space) (lo n : Nat) (rd : Nat → ReadRef) (wr : Nat → WriteRef) : (s.fillEntries sp lo n rd wr).params = s.params := by cases sp <;> rfl
@[simp] theorem fillEntries_wires (s : State) (sp : Space) (lo n : Nat) (rd : Nat → ReadRef) (wr : Nat → WriteRef) : (s.fillEntries sp lo n rd wr).wires = s.wires := by cases sp <;> rfl
@[simp] theorem fillEntries_rom (s : State) (sp : Space) (lo n : Nat) (rd : Nat → ReadRef) (wr : Nat → WriteRef) : (s.fillEntries sp lo n rd wr).rom = s.rom := by cases sp <;> rfl
@[simp] theorem fillEntries_prgBank (s : State) (sp : Space) (lo n : Nat) (rd : Nat → ReadRef) (wr : Nat → WriteRef) : (s.fillEntries sp lo n rd wr).prgBank = s.prgBank := by cases sp <;> rfl
@[simp] theorem fillEntries_chrBank (s : State) (sp : Space) (lo n : Nat) (rd : Nat → ReadRef) (wr : Nat → WriteRef) : (s.fillEntries sp lo n rd wr).chrBank = s.chrBank := by cases sp <;> rfl
@[simp] theorem fillEntries_mirrorMode (s : State) (sp : Space) (lo n : Nat) (rd : Nat → ReadRef) (wr : Nat → WriteRef) : (s.fillEntries sp lo n rd wr).mirrorMode = s.mirrorMode := by cases sp <;> rfl
@[simp] theorem fillEntries_irq (s : State) (sp : Space) (lo n : Nat) (rd : Nat → ReadRef) (wr : Nat → WriteRef) : (s.fillEntries sp lo n rd wr).irq = s.irq := by cases sp <;> rfl
@[simp] theorem fillEntries_irqOut (s : State) (sp : Space) (lo n : Nat) (rd : Nat → ReadRef) (wr : Nat → WriteRef) : (s.fillEntries sp lo n rd wr).irqOut = s.irqOut := by cases sp <;> rfl
@[simp] theorem fillEntries_tramp (s : State) (sp : Space) (lo n : Nat) (rd : Nat → ReadRef) (wr : Nat → WriteRef) : (s.fillEntries sp lo n rd wr).tramp = s.tramp := by cases sp <;> rfl
@[simp] theorem fillEntries_family (s : State) (sp : Space) (lo n : Nat) (rd : Nat → ReadRef) (wr : Nat → WriteRef) : (s.fillEntries sp lo n rd wr).family = s.family := by cases sp <;> rfl
@[simp] theorem fillEntries_chrRam (s : State) (sp : Space) (lo n : Nat) (rd : Nat → ReadRef) (wr : Nat → WriteRef) : (s.fillEntries sp lo n rd wr).chrRam = s.chrRam := by cases sp <;> rfl
@[simp] theorem fillEntries_phase (s : State) (sp : Space) (lo n : Nat) (rd : Nat → ReadRef) (wr : Nat → WriteRef) : (s.fillEntries sp lo n rd wr).phase = s.phase := by cases sp <;> rfl
@[simp] theorem fillEntries_draws (s : State) (sp : Space) (lo n : Nat) (rd : Nat → ReadRef) (wr : Nat → WriteRef) : (s.fillEntries sp lo n rd wr).draws = s.draws := by cases sp <;> rfl
@[simp] theorem fillEntries_answers (s : State) (sp : Space) (lo n : Nat) (rd : Nat → ReadRef) (wr : Nat → WriteRef) : (s.fillEntries sp lo n rd wr).answers = s.answers := by cases sp <;> rfl
@[simp] theorem fillEntries_port (s : State) (sp : Space) (lo n : Nat) (rd : Nat → ReadRef) (wr : Nat → WriteRef) : (s.fillEntries sp lo n rd wr).port = s.port := by cases sp <;> rfl
@[simp] theorem fillEntries_resp (s : State) (sp : Space) (lo n : Nat) (rd : Nat → ReadRef) (wr : Nat → WriteRef) : (s.fillEntries sp lo n rd wr).resp = s.resp := by cases sp <;> rfl
@[simp] theorem fillEntries_calls (s : State) (sp : Space) (lo n : Nat) (rd : Nat → ReadRef) (wr : Nat → WriteRef) : (s.fillEntries sp lo n rd wr).calls = s.calls := by cases sp <;> rfl

/-! ### `putStore` -/

@[simp] theorem putStore_params (s : State) (sp : Space) (i : Nat) (v : Byte) : (s.putStore sp i v).params = s.params := by cases sp <;> rfl
@[simp] theorem putStore_wires (s : State) (sp : Space) (i : Nat) (v : Byte) : (s.putStore sp i v).wires = s.wires := by cases sp <;> rfl
@[simp] theorem putStore_rom (s : State) (sp : Space) (i : Nat) (v : Byte) : (s.putStore sp i v).rom = s.rom := by cases sp <;> rfl
@[simp] theorem putStore_prgBank (s : State) (sp : Space) (i : Nat) (v : Byte) : (s.putStore sp i v).prgBank = s.prgBank := by cases sp <;> rfl
@[simp] theorem putStore_chrBank (s : State) (sp : Space) (i : Nat) (v : Byte) : (s.putStore sp i v).chrBank = s.chrBank := by cases sp <;> rfl
@[simp] theorem putStore_mirrorMode (s : State) (sp : Space) (i : Nat) (v : Byte) : (s.putStore sp i v).mirrorMode = s.mirrorMode := by cases sp <;> rfl
@[simp] theorem putStore_irq (s : State) (sp : Space) (i : Nat) (v : Byte) : (s.putStore sp i v).irq = s.irq := by cases sp <;> rfl
@[simp] theorem putStore_irqOut (s : State) (sp : Space) (i : Nat) (v : Byte) : (s.putStore sp i v).irqOut = s.irqOut := by cases sp <;> rfl
@[simp] theorem putStore_tramp (s : State) (sp : Space) (i : Nat) (v : Byte) : (s.putStore sp i v).tramp = s.tramp := by cases sp <;> rfl
@[simp] theorem putStore_family (s : State) (sp : Space) (i : Nat) (v : Byte) : (s.putStore sp i v).family = s.family := by cases sp <;> rfl
@[simp] theorem putStore_chrRam (s : State) (sp : Space) (i : Nat) (v : Byte) : (s.putStore sp i v).chrRam = s.chrRam := by cases sp <;> rfl
@[simp] theorem putStore_phase (s : State) (sp : Space) (i : Nat) (v : Byte) : (s.putStore sp i v).phase = s.phase := by cases sp <;> rfl
@[simp] theorem putStore_draws (s : State) (sp : Space) (i : Nat) (v : Byte) : (s.putStore sp i v).draws = s.draws := by cases sp <;> rfl
@[simp] theorem putStore_answers (s : State) (sp : Space) (i : Nat) (v : Byte) : (s.putStore sp i v).answers = s.answers := by cases sp <;> rfl
@[simp] theorem putStore_port (s : State) (sp : Space) (i : Nat) (v : Byte) : (s.putStore sp i v).port = s.port := by cases sp <;> rfl
@[simp] theorem putStore_resp (s : State) (sp : Space) (i : Nat) (v : Byte) : (s.putStore sp i v).resp = s.resp := by cases sp <;> rfl
@[simp] theorem putStore_calls (s : State) (sp : Space) (i : Nat) (v : Byte) : (s.putStore sp i v).calls = s.calls := by cases sp <;> rfl

/-! ### `dropTramps` -/

@[simp] theorem dropTramps_params (s : State) : (s.dropTramps).params = s.params := rfl
@[simp] theorem dropTramps_wires (s : State) : (s.dropTramps).wires = s.wires := rfl
@[simp] theorem dropTramps_rom (s : State) : (s.dropTramps).rom = s.rom := rfl
@[simp] theorem dropTramps_prgBank (s : State) : (s.dropTramps).prgBank = s.prgBank := rfl
@[simp] theorem dropTramps_chrBank (s : State) : (s.dropTramps).chrBank = s.chrBank := rfl
@[simp] theorem dropTramps_mirrorMode (s : State) : (s.dropTramps).mirrorMode = s.mirrorMode := rfl
@[simp] theorem dropTramps_irq (s : State) : (s.dropTramps).irq = s.irq := rfl
@[simp] theorem dropTramps_irqOut (s : State) : (s.dropTramps).irqOut = s.irqOut := rfl
@[simp] theorem dropTramps_family (s : State) : (s.dropTramps).family = s.family := rfl
@[simp] theorem dropTramps_chrRam (s : State) : (s.dropTramps).chrRam = s.chrRam := rfl
@[simp] theorem dropTramps_phase (s : State) : (s.dropTramps).phase = s.phase := rfl
@[simp] theorem dropTramps_draws (s : State) : (s.dropTramps).draws = s.draws := rfl
@[simp] theorem dropTramps_answers (s : State) : (s.dropTramps).answers = s.answers := rfl
@[simp] theorem dropTramps_port (s : State) : (s.dropTramps).port = s.port := rfl
@[simp] theorem dropTramps_resp (s : State) : (s.dropTramps).resp = s.resp := rfl
@[simp] theorem dropTramps_calls (s : State) : (s.dropTramps).calls = s.calls := rfl

/-! ### `releaseEntries` -/

@[simp] theorem releaseEntries_params (s : State) : (s.releaseEntries).params = s.params := rfl
@[simp] theorem releaseEntries_wires (s : State) : (s.releaseEntries).wires = s.wires := rfl
@[simp] theorem releaseEntries_rom (s : State) : (s.releaseEntries).rom = s.rom := rfl
@[simp] theorem releaseEntries_prgBank (s : State) : (s.releaseEntries).prgBank = s.prgBank := rfl
@[simp] theorem releaseEntries_chrBank (s : State) : (s.releaseEntries).chrBank = s.chrBank := rfl
@[simp] theorem releaseEntries_mirrorMode (s : State) : (s.releaseEntries).mirrorMode = s.mirrorMode := rfl
@[simp] theorem releaseEntries_irq (s : State) : (s.releaseEntries).irq = s.irq := rfl
@[simp] theorem releaseEntries_irqOut (s : State) : (s.releaseEntries).irqOut = s.irqOut := rfl
@[simp] theorem releaseEntries_family (s : State) : (s.releaseEntries).family = s.family := rfl
@[simp] theorem releaseEntries_chrRam (s : State) : (s.releaseEntries).chrRam = s.chrRam := rfl
@[simp] theorem releaseEntries_phase (s : State) : (s.releaseEntries).phase = s.phase := rfl
@[simp] theorem releaseEntries_draws (s : State) : (s.releaseEntries).draws = s.draws := rfl
@[simp] theorem releaseEntries_answers (s : State) : (s.releaseEntries).answers = s.answers := rfl
@[simp] theorem releaseEntries_port (s : State) : (s.releaseEntries).port = s.port := rfl
@[simp] theorem releaseEntries_resp (s : State) : (s.releaseEntries).resp = s.resp := rfl
@[simp] theorem releaseEntries_calls (s : State) : (s.releaseEntries).calls = s.calls := rfl

/-! ### `putChrRam` -/

@[simp] theorem putChrRam_params (s : State) (i : Nat) (v : Byte) : (s.putChrRam i v).params = s.params := rfl
@[simp] theorem putChrRam_wires (s : State) (i : Nat) (v : Byte) : (s.putChrRam i v).wires = s.wires := rfl
@[simp] theorem putChrRam_rom (s : State) (i : Nat) (v : Byte) : (s.putChrRam i v).rom = s.rom := rfl
@[simp] theorem putChrRam_prgBank (s : State) (i : Nat) (v : Byte) : (s.putChrRam i v).prgBank = s.prgBank := rfl
@[simp] theorem putChrRam_chrBank (s : State) (i : Nat) (v : Byte) : (s.putChrRam i v).chrBank = s.chrBank := rfl
@[simp] theorem putChrRam_mirrorMode (s : State) (i : Nat) (v : Byte) : (s.putChrRam i v).mirrorMode = s.mirrorMode := rfl
@[simp] theorem putChrRam_irq (s : State) (i : Nat) (v : Byte) : (s.putChrRam i v).irq = s.irq := rfl
@[simp] theorem putChrRam_irqOut (s : State) (i : Nat) (v : Byte) : (s.putChrRam i v).irqOut = s.irqOut := rfl
@[simp] theorem putChrRam_tramp (s : State) (i : Nat) (v : Byte) : (s.putChrRam i v).tramp = s.tramp := rfl
@[simp] theorem putChrRam_family (s : State) (i : Nat) (v : Byte) : (s.putChrRam i v).family = s.family := rfl
@[simp] theorem putChrRam_phase (s : State) (i : Nat) (v : Byte) : (s.putChrRam i v).phase = s.phase := rfl
@[simp] theorem putChrRam_draws (s : State) (i : Nat) (v : Byte) : (s.putChrRam i v).draws = s.draws := rfl
@[simp] theorem putChrRam_answers (s : State) (i : Nat) (v : Byte) : (s.putChrRam i v).answers = s.answers := rfl
@[simp] theorem putChrRam_port (s : State) (i : Nat) (v : Byte) : (s.putChrRam i v).port = s.port := rfl
@[simp] theorem putChrRam_resp (s : State) (i : Nat) (v : Byte) : (s.putChrRam i v).resp = s.resp := rfl
@[simp] theorem putChrRam_calls (s : State) (i : Nat) (v : Byte) : (s.putChrRam i v).calls = s.calls := rfl
@[simp] theorem putChrRam_bus (s : State) (i : Nat) (v : Byte) (sp' : Space) : (s.putChrRam i v).bus sp' = s.bus sp' := by
  cases sp' <;> rfl

/-! ### `setPrgBank` -/

@[simp] theorem setPrgBank_params (s : State) (slot : Slot) (size : Nat) (idx : Int) : (s.setPrgBank slot size idx).params = s.params := rfl
@[simp] theorem setPrgBank_wires (s : State) (slot : Slot) (size : Nat) (idx : Int) : (s.setPrgBank slot size idx).wires = s.wires := rfl
@[simp] theorem setPrgBank_rom (s : State) (slot : Slot) (size : Nat) (idx : Int) : (s.setPrgBank slot size idx).rom = s.rom := rfl
@[simp] theorem setPrgBank_chrBank (s : State) (slot : Slot) (size : Nat) (idx : Int) : (s.setPrgBank slot size idx).chrBank = s.chrBank := rfl
@[simp] theorem setPrgBank_mirrorMode (s : State) (slot : Slot) (size : Nat) (idx : Int) : (s.setPrgBank slot size idx).mirrorMode = s.mirrorMode := rfl
@[simp] theorem setPrgBank_irq (s : State) (slot : Slot) (size : Nat) (idx : Int) : (s.setPrgBank slot size idx).irq = s.irq := rfl
@[simp] theorem setPrgBank_irqOut (s : State) (slot : Slot) (size : Nat) (idx : Int) : (s.setPrgBank slot size idx).irqOut = s.irqOut := rfl
@[simp] theorem setPrgBank_tramp (s : State) (slot : Slot) (size : Nat) (idx : Int) : (s.setPrgBank slot size idx).tramp = s.tramp := rfl
@[simp] theorem setPrgBank_family (s : State) (slot : Slot) (size : Nat) (idx : Int) : (s.setPrgBank slot size idx).family = s.family := rfl
@[simp] theorem setPrgBank_chrRam (s : State) (slot : Slot) (size : Nat) (idx : Int) : (s.setPrgBank slot size idx).chrRam = s.chrRam := rfl
@[simp] theorem setPrgBank_phase (s : State) (slot : Slot) (size : Nat) (idx : Int) : (s.setPrgBank slot size idx).phase = s.phase := rfl
@[simp] theorem setPrgBank_draws (s : State) (slot : Slot) (size : Nat) (idx : Int) : (s.setPrgBank slot size idx).draws = s.draws := rfl
@[simp] theorem setPrgBank_answers (s : State) (slot : Slot) (size : Nat) (idx : Int) : (s.setPrgBank slot size idx).answers = s.answers := rfl
@[simp] theorem setPrgBank_port (s : State) (slot : Slot) (size : Nat) (idx : Int) : (s.setPrgBank slot size idx).port = s.port := rfl
@[simp] theorem setPrgBank_resp (s : State) (slot : Slot) (size : Nat) (idx : Int) : (s.setPrgBank slot size idx).resp = s.resp := rfl
@[simp] theorem setPrgBank_calls (s : State) (slot : Slot) (size : Nat) (idx : Int) : (s.setPrgBank slot size idx).calls = s.calls := rfl
@[simp] theorem setPrgBank_bus (s : State) (slot : Slot) (size : Nat) (idx : Int) (sp' : Space) : (s.setPrgBank slot size idx).bus sp' = s.bus sp' := by
  cases sp' <;> rfl

/-! ### `setChrBank` -/

@[simp] theorem setChrBank_params (s : State) (slot : Slot) (size : Nat) (idx : Int) : (s.setChrBank slot size idx).params = s.params := rfl
@[simp] theorem setChrBank_wires (s : State) (slot : Slot) (size : Nat) (idx : Int) : (s.setChrBank slot size idx).wires = s.wires := rfl
@[simp] theorem setChrBank_rom (s : State) (slot : Slot) (size : Nat) (idx : Int) : (s.setChrBank slot size idx).rom = s.rom := rfl
@[simp] theorem setChrBank_prgBank (s : State) (slot : Slot) (size : Nat) (idx : Int) : (s.setChrBank slot size idx).prgBank = s.prgBank := rfl
@[simp] theorem setChrBank_mirrorMode (s : State) (slot : Slot) (size : Nat) (idx : Int) : (s.setChrBank slot size idx).mirrorMode = s.mirrorMode := rfl
@[simp] theorem setChrBank_irq (s : State) (slot : Slot) (size : Nat) (idx : Int) : (s.setChrBank slot size idx).irq = s.irq := rfl
@[simp] theorem setChrBank_irqOut (s : State) (slot : Slot) (size : Nat) (idx : Int) : (s.setChrBank slot size idx).irqOut = s.irqOut := rfl
@[simp] theorem setChrBank_tramp (s : State) (slot : Slot) (size : Nat) (idx : Int) : (s.setChrBank slot size idx).tramp = s.tramp := rfl
@[simp] theorem setChrBank_family (s : State) (slot : Slot) (size : Nat) (idx : Int) : (s.setChrBank slot size idx).family = s.family := rfl
@[simp] theorem setChrBank_chrRam (s : State) (slot : Slot) (size : Nat) (idx : Int) : (s.setChrBank slot size idx).chrRam = s.chrRam := rfl
@[simp] theorem setChrBank_phase (s : State) (slot : Slot) (size : Nat) (idx : Int) : (s.setChrBank slot size idx).phase = s.phase := rfl
@[simp] theorem setChrBank_draws (s : State) (slot : Slot) (size : Nat) (idx : Int) : (s.setChrBank slot size idx).draws = s.draws := rfl
@[simp] theorem setChrBank_answers (s : State) (slot : Slot) (size : Nat) (idx : Int) : (s.setChrBank slot size idx).answers = s.answers := rfl
@[simp] theorem setChrBank_port (s : State) (slot : Slot) (size : Nat) (idx : Int) : (s.setChrBank slot size idx).port = s.port := rfl
@[simp] theorem setChrBank_resp (s : State) (slot : Slot) (size : Nat) (idx : Int) : (s.setChrBank slot size idx).resp = s.resp := rfl
@[simp] theorem setChrBank_calls (s : State) (slot : Slot) (size : Nat) (idx : Int) : (s.setChrBank slot size idx).calls = s.calls := rfl
@[simp] theorem setChrBank_bus (s : State) (slot : Slot) (size : Nat) (idx : Int) (sp' : Space) : (s.setChrBank slot size idx).bus sp' = s.bus sp' := by
  cases sp' <;> rfl

/-! ### `setMirrorCode` -/

@[simp] theorem setMirrorCode_params (s : State) (code : BitVec 3) : (s.setMirrorCode code).params = s.params := rfl
@[simp] theorem setMirrorCode_wires (s : State) (code : BitVec 3) : (s.setMirrorCode code).wires = s.wires := rfl
@[simp] theorem setMirrorCode_rom (s : State) (code : BitVec 3) : (s.setMirrorCode code).rom = s.rom := rfl
@[simp] theorem setMirrorCode_prgBank (s : State) (code : BitVec 3) : (s.setMirrorCode code).prgBank = s.prgBank := rfl
@[simp] theorem setMirrorCode_chrBank (s : State) (code : BitVec 3) : (s.setMirrorCode code).chrBank = s.chrBank := rfl
@[simp] theorem setMirrorCode_irq (s : State) (code : BitVec 3) : (s.setMirrorCode code).irq = s.irq := rfl
@[simp] theorem setMirrorCode_irqOut (s : State) (code : BitVec 3) : (s.setMirrorCode code).irqOut = s.irqOut := rfl
@[simp] theorem setMirrorCode_tramp (s : State) (code : BitVec 3) : (s.setMirrorCode code).tramp = s.tramp := rfl
@[simp] theorem setMirrorCode_family (s : State) (code : BitVec 3) : (s.setMirrorCode code).family = s.family := rfl
@[simp] theorem setMirrorCode_chrRam (s : State) (code : BitVec 3) : (s.setMirrorCode code).chrRam = s.chrRam := rfl
@[simp] theorem setMirrorCode_phase (s : State) (code : BitVec 3) : (s.setMirrorCode code).phase = s.phase := rfl
@[simp] theorem setMirrorCode_draws (s : State) (code : BitVec 3) : (s.setMirrorCode code).draws = s.draws := rfl
@[simp] theorem setMirrorCode_answers (s : State) (code : BitVec 3) : (s.setMirrorCode code).answers = s.answers := rfl
@[simp] theorem setMirrorCode_port (s : State) (code : BitVec 3) : (s.setMirrorCode code).port = s.port := rfl
@[simp] theorem setMirrorCode_resp (s : State) (code : BitVec 3) : (s.setMirrorCode code).resp = s.resp := rfl
@[simp] theorem setMirrorCode_calls (s : State) (code : BitVec 3) : (s.setMirrorCode code).calls = s.calls := rfl
@[simp] theorem setMirrorCode_bus (s : State) (code : BitVec 3) (sp' : Space) : (s.setMirrorCode code).bus sp' = s.bus sp' := by
  cases sp' <;> rfl

/-! ### `setMirror` -/

@[simp] theorem setMirror_params (s : State) (m : MirrorMode) : (s.setMirror m).params = s.params := rfl
@[simp] theorem setMirror_wires (s : State) (m : MirrorMode) : (s.setMirror m).wires = s.wires := rfl
@[simp] theorem setMirror_rom (s : State) (m : MirrorMode) : (s.setMirror m).rom = s.rom := rfl
@[simp] theorem setMirror_prgBank (s : State) (m : MirrorMode) : (s.setMirror m).prgBank = s.prgBank := rfl
@[simp] theorem setMirror_chrBank (s : State) (m : MirrorMode) : (s.setMirror m).chrBank = s.chrBank := rfl
@[simp] theorem setMirror_irq (s : State) (m : MirrorMode) : (s.setMirror m).irq = s.irq := rfl
@[simp] theorem setMirror_irqOut (s : State) (m : MirrorMode) : (s.setMirror m).irqOut = s.irqOut := rfl
@[simp] theorem setMirror_tramp (s : State) (m : MirrorMode) : (s.setMirror m).tramp = s.tramp := rfl
@[simp] theorem setMirror_family (s : State) (m : MirrorMode) : (s.setMirror m).family = s.family := rfl
@[simp] theorem setMirror_chrRam (s : State) (m : MirrorMode) : (s.setMirror m).chrRam = s.chrRam := rfl
@[simp] theorem setMirror_phase (s : State) (m : MirrorMode) : (s.setMirror m).phase = s.phase := rfl
@[simp] theorem setMirror_draws (s : State) (m : MirrorMode) : (s.setMirror m).draws = s.draws := rfl
@[simp] theorem setMirror_answers (s : State) (m : MirrorMode) : (s.setMirror m).answers = s.answers := rfl
@[simp] theorem setMirror_port (s : State) (m : MirrorMode) : (s.setMirror m).port = s.port := rfl
@[simp] theorem setMirror_resp (s : State) (m : MirrorMode) : (s.setMirror m).resp = s.resp := rfl
@[simp] theorem setMirror_calls (s : State) (m : MirrorMode) : (s.setMirror m).calls = s.calls := rfl
@[simp] theorem setMirror_bus (s : State) (m : MirrorMode) (sp' : Space) : (s.setMirror m).bus sp' = s.bus sp' := by
  cases sp' <;> rfl

/-! ### `setIrq` -/

@[simp] theorem setIrq_params (s : State) (r : IrqState) : (s.setIrq r).params = s.params := rfl
@[simp] theorem setIrq_wires (s : State) (r : IrqState) : (s.setIrq r).wires = s.wires := rfl
@[simp] theorem setIrq_rom (s : State) (r : IrqState) : (s.setIrq r).rom = s.rom := rfl
@[simp] theorem setIrq_prgBank (s : State) (r : IrqState) : (s.setIrq r).prgBank = s.prgBank := rfl
@[simp] theorem setIrq_chrBank (s : State) (r : IrqState) : (s.setIrq r).chrBank = s.chrBank := rfl
@[simp] theorem setIrq_mirrorMode (s : State) (r : IrqState) : (s.setIrq r).mirrorMode = s.mirrorMode := rfl
@[simp] theorem setIrq_irqOut (s : State) (r : IrqState) : (s.setIrq r).irqOut = s.irqOut := rfl
@[simp] theorem setIrq_tramp (s : State) (r : IrqState) : (s.setIrq r).tramp = s.tramp := rfl
@[simp] theorem setIrq_family (s : State) (r : IrqState) : (s.setIrq r).family = s.family := rfl
@[simp] theorem setIrq_chrRam (s : State) (r : IrqState) : (s.setIrq r).chrRam = s.chrRam := rfl
@[simp] theorem setIrq_phase (s : State) (r : IrqState) : (s.setIrq r).phase = s.phase := rfl
@[simp] theorem setIrq_draws (s : State) (r : IrqState) : (s.setIrq r).draws = s.draws := rfl
@[simp] theorem setIrq_answers (s : State) (r : IrqState) : (s.setIrq r).answers = s.answers := rfl
@[simp] theorem setIrq_port (s : State) (r : IrqState) : (s.setIrq r).port = s.port := rfl
@[simp] theorem setIrq_resp (s : State) (r : IrqState) : (s.setIrq r).resp = s.resp := rfl
@[simp] theorem setIrq_calls (s : State) (r : IrqState) : (s.setIrq r).calls = s.calls := rfl
@[simp] theorem setIrq_bus (s : State) (r : IrqState) (sp' : Space) : (s.setIrq r).bus sp' = s.bus sp' := by
  cases sp' <;> rfl

/-! ### `setFamily` -/

@[simp] theorem setFamily_params (s : State) (r : FamilyState) : (s.setFamily r).params = s.params := rfl
@[simp] theorem setFamily_wires (s : State) (r : FamilyState) : (s.setFamily r).wires = s.wires := rfl
@[simp] theorem setFamily_rom (s : State) (r : FamilyState) : (s.setFamily r).rom = s.rom := rfl
@[simp] theorem setFamily_prgBank (s : State) (r : FamilyState) : (s.setFamily r).prgBank = s.prgBank := rfl
@[simp] theorem setFamily_chrBank (s : State) (r : FamilyState) : (s.setFamily r).chrBank = s.chrBank := rfl
@[simp] theorem setFamily_mirrorMode (s : State) (r : FamilyState) : (s.setFamily r).mirrorMode = s.mirrorMode := rfl
@[simp] theorem setFamily_irq (s : State) (r : FamilyState) : (s.setFamily r).irq = s.irq := rfl
@[simp] theorem setFamily_irqOut (s : State) (r : FamilyState) : (s.setFamily r).irqOut = s.irqOut := rfl
@[simp] theorem setFamily_tramp (s : State) (r : FamilyState) : (s.setFamily r).tramp = s.tramp := rfl
@[simp] theorem setFamily_chrRam (s : State) (r : FamilyState) : (s.setFamily r).chrRam = s.chrRam := rfl
@[simp] theorem setFamily_phase (s : State) (r : FamilyState) : (s.setFamily r).phase = s.phase := rfl
@[simp] theorem setFamily_draws (s : State) (r : FamilyState) : (s.setFamily r).draws = s.draws := rfl
@[simp] theorem setFamily_answers (s : State) (r : FamilyState) : (s.setFamily r).answers = s.answers := rfl
@[simp] theorem setFamily_port (s : State) (r : FamilyState) : (s.setFamily r).port = s.port := rfl
@[simp] theorem setFamily_resp (s : State) (r : FamilyState) : (s.setFamily r).resp = s.resp := rfl
@[simp] theorem setFamily_calls (s : State) (r : FamilyState) : (s.setFamily r).calls = s.calls := rfl
@[simp] theorem setFamily_bus (s : State) (r : FamilyState) (sp' : Space) : (s.setFamily r).bus sp' = s.bus sp' := by
  cases sp' <;> rfl

/-! ### `irqAssert` -/

@[simp] theorem irqAssert_params (s : State) : (s.irqAssert).params = s.params := rfl
@[simp] theorem irqAssert_wires (s : State) : (s.irqAssert).wires = s.wires := rfl
@[simp] theorem irqAssert_rom (s : State) : (s.irqAssert).rom = s.rom := rfl
@[simp] theorem irqAssert_prgBank (s : State) : (s.irqAssert).prgBank = s.prgBank := rfl
@[simp] theorem irqAssert_chrBank (s : State) : (s.irqAssert).chrBank = s.chrBank := rfl
@[simp] theorem irqAssert_mirrorMode (s : State) : (s.irqAssert).mirrorMode = s.mirrorMode := rfl
@[simp] theorem irqAssert_irq (s : State) : (s.irqAssert).irq = s.irq := rfl
@[simp] theorem irqAssert_tramp (s : State) : (s.irqAssert).tramp = s.tramp := rfl
@[simp] theorem irqAssert_family (s : State) : (s.irqAssert).family = s.family := rfl
@[simp] theorem irqAssert_chrRam (s : State) : (s.irqAssert).chrRam = s.chrRam := rfl
@[simp] theorem irqAssert_phase (s : State) : (s.irqAssert).phase = s.phase := rfl
@[simp] theorem irqAssert_draws (s : State) : (s.irqAssert).draws = s.draws := rfl
@[simp] theorem irqAssert_answers (s : State) : (s.irqAssert).answers = s.answers := rfl
@[simp] theorem irqAssert_port (s : State) : (s.irqAssert).port = s.port := rfl
@[simp] theorem irqAssert_resp (s : State) : (s.irqAssert).resp = s.resp := rfl
@[simp] theorem irqAssert_bus (s : State) (sp' : Space) : (s.irqAssert).bus sp' = s.bus sp' := by
  cases sp' <;> rfl

/-! ### `irqClear` -/

@[simp] theorem irqClear_params (s : State) : (s.irqClear).params = s.params := rfl
@[simp] theorem irqClear_wires (s : State) : (s.irqClear).wires = s.wires := rfl
@[simp] theorem irqClear_rom (s : State) : (s.irqClear).rom = s.rom := rfl
@[simp] theorem irqClear_prgBank (s : State) : (s.irqClear).prgBank = s.prgBank := rfl
@[simp] theorem irqClear_chrBank (s : State) : (s.irqClear).chrBank = s.chrBank := rfl
@[simp] theorem irqClear_mirrorMode (s : State) : (s.irqClear).mirrorMode = s.mirrorMode := rfl
@[simp] theorem irqClear_irq (s : State) : (s.irqClear).irq = s.irq := rfl
@[simp] theorem irqClear_tramp (s : State) : (s.irqClear).tramp = s.tramp := rfl
@[simp] theorem irqClear_family (s : State) : (s.irqClear).family = s.family := rfl
@[simp] theorem irqClear_chrRam (s : State) : (s.irqClear).chrRam = s.chrRam := rfl
@[simp] theorem irqClear_phase (s : State) : (s.irqClear).phase = s.phase := rfl
@[simp] theorem irqClear_draws (s : State) : (s.irqClear).draws = s.draws := rfl
@[simp] theorem irqClear_answers (s : State) : (s.irqClear).answers = s.answers := rfl
@[simp] theorem irqClear_port (s : State) : (s.irqClear).port = s.port := rfl
@[simp] theorem irqClear_resp (s : State) : (s.irqClear).resp = s.resp := rfl
@[simp] theorem irqClear_bus (s : State) (sp' : Space) : (s.irqClear).bus sp' = s.bus sp' := by
  cases sp' <;> rfl

/-! ### `respond` -/

@[simp] theorem respond_params (s : State) (r : Answer) : (s.respond r).params = s.params := rfl
@[simp] theorem respond_wires (s : State) (r : Answer) : (s.respond r).wires = s.wires := rfl
@[simp] theorem respond_rom (s : State) (r : Answer) : (s.respond r).rom = s.rom := rfl
@[simp] theorem respond_prgBank (s : State) (r : Answer) : (s.respond r).prgBank = s.prgBank := rfl
@[simp] theorem respond_chrBank (s : State) (r : Answer) : (s.respond r).chrBank = s.chrBank := rfl
@[simp] theorem respond_mirrorMode (s : State) (r : Answer) : (s.respond r).mirrorMode = s.mirrorMode := rfl
@[simp] theorem respond_irq (s : State) (r : Answer) : (s.respond r).irq = s.irq := rfl
@[simp] theorem respond_irqOut (s : State) (r : Answer) : (s.respond r).irqOut = s.irqOut := rfl
@[simp] theorem respond_tramp (s : State) (r : Answer) : (s.respond r).tramp = s.tramp := rfl
@[simp] theorem respond_family (s : State) (r : Answer) : (s.respond r).family = s.family := rfl
@[simp] theorem respond_chrRam (s : State) (r : Answer) : (s.respond r).chrRam = s.chrRam := rfl
@[simp] theorem respond_phase (s : State) (r : Answer) : (s.respond r).phase = s.phase := rfl
@[simp] theorem respond_draws (s : State) (r : Answer) : (s.respond r).draws = s.draws := rfl
@[simp] theorem respond_port (s : State) (r : Answer) : (s.respond r).port = s.port := rfl
@[simp] theorem respond_calls (s : State) (r : Answer) : (s.respond r).calls = s.calls := rfl
@[simp] theorem respond_bus (s : State) (r : Answer) (sp' : Space) : (s.respond r).bus sp' = s.bus sp' := by
  cases sp' <;> rfl

/-! ### `addRecord` -/

@[simp] theorem addRecord_params (s : State) (p : PrevRef) : (s.addRecord p).params = s.params := rfl
@[simp] theorem addRecord_wires (s : State) (p : PrevRef) : (s.addRecord p).wires = s.wires := rfl
@[simp] theorem addRecord_rom (s : State) (p : PrevRef) : (s.addRecord p).rom = s.rom := rfl
@[simp] theorem addRecord_prgBank (s : State) (p : PrevRef) : (s.addRecord p).prgBank = s.prgBank := rfl
@[simp] theorem addRecord_chrBank (s : State) (p : PrevRef) : (s.addRecord p).chrBank = s.chrBank := rfl
@[simp] theorem addRecord_mirrorMode (s : State) (p : PrevRef) : (s.addRecord p).mirrorMode = s.mirrorMode := rfl
@[simp] theorem addRecord_irq (s : State) (p : PrevRef) : (s.addRecord p).irq = s.irq := rfl
@[simp] theorem addRecord_irqOut (s : State) (p : PrevRef) : (s.addRecord p).irqOut = s.irqOut := rfl
@[simp] theorem addRecord_family (s : State) (p : PrevRef) : (s.addRecord p).family = s.family := rfl
@[simp] theorem addRecord_chrRam (s : State) (p : PrevRef) : (s.addRecord p).chrRam = s.chrRam := rfl
@[simp] theorem addRecord_phase (s : State) (p : PrevRef) : (s.addRecord p).phase = s.phase := rfl
@[simp] theorem addRecord_draws (s : State) (p : PrevRef) : (s.addRecord p).draws = s.draws := rfl
@[simp] theorem addRecord_answers (s : State) (p : PrevRef) : (s.addRecord p).answers = s.answers := rfl
@[simp] theorem addRecord_port (s : State) (p : PrevRef) : (s.addRecord p).port = s.port := rfl
@[simp] theorem addRecord_resp (s : State) (p : PrevRef) : (s.addRecord p).resp = s.resp := rfl
@[simp] theorem addRecord_calls (s : State) (p : PrevRef) : (s.addRecord p).calls = s.calls := rfl
@[simp] theorem addRecord_bus (s : State) (p : PrevRef) (sp' : Space) : (s.addRecord p).bus sp' = s.bus sp' := by
  cases sp' <;> rfl

/-! ### `sanitize` -/

@[simp] theorem sanitize_params (s : State) : (s.sanitize).params = s.params := rfl
@[simp] theorem sanitize_wires (s : State) : (s.sanitize).wires = s.wires := rfl
@[simp] theorem sanitize_rom (s : State) : (s.sanitize).rom = s.rom := rfl
@[simp] theorem sanitize_mirrorMode (s : State) : (s.sanitize).mirrorMode = s.mirrorMode := rfl
@[simp] theorem sanitize_irq (s : State) : (s.sanitize).irq = s.irq := rfl
@[simp] theorem sanitize_irqOut (s : State) : (s.sanitize).irqOut = s.irqOut := rfl
@[simp] theorem sanitize_tramp (s : State) : (s.sanitize).tramp = s.tramp := rfl
@[simp] theorem sanitize_family (s : State) : (s.sanitize).family = s.family := rfl
@[simp] theorem sanitize_chrRam (s : State) : (s.sanitize).chrRam = s.chrRam := rfl
@[simp] theorem sanitize_phase (s : State) : (s.sanitize).phase = s.phase := rfl
@[simp] theorem sanitize_draws (s : State) : (s.sanitize).draws = s.draws := rfl
@[simp] theorem sanitize_answers (s : State) : (s.sanitize).answers = s.answers := rfl
@[simp] theorem sanitize_port (s : State) : (s.sanitize).port = s.port := rfl
@[simp] theorem sanitize_resp (s : State) : (s.sanitize).resp = s.resp := rfl
@[simp] theorem sanitize_calls (s : State) : (s.sanitize).calls = s.calls := rfl
@[simp] theorem sanitize_bus (s : State) (sp' : Space) : (s.sanitize).bus sp' = s.bus sp' := by
  cases sp' <;> rfl

/-! ### `zeroBanks` -/

@[simp] theorem zeroBanks_params (s : State) : (s.zeroBanks).params = s.params := rfl
@[simp] theorem zeroBanks_wires (s : State) : (s.zeroBanks).wires = s.wires := rfl
@[simp] theorem zeroBanks_rom (s : State) : (s.zeroBanks).rom = s.rom := rfl
@[simp] theorem zeroBanks_mirrorMode (s : State) : (s.zeroBanks).mirrorMode = s.mirrorMode := rfl
@[simp] theorem zeroBanks_irq (s : State) : (s.zeroBanks).irq = s.irq := rfl
@[simp] theorem zeroBanks_irqOut (s : State) : (s.zeroBanks).irqOut = s.irqOut := rfl
@[simp] theorem zeroBanks_tramp (s : State) : (s.zeroBanks).tramp = s.tramp := rfl
@[simp] theorem zeroBanks_family (s : State) : (s.zeroBanks).family = s.family := rfl
@[simp] theorem zeroBanks_chrRam (s : State) : (s.zeroBanks).chrRam = s.chrRam := rfl
@[simp] theorem zeroBanks_phase (s : State) : (s.zeroBanks).phase = s.phase := rfl
@[simp] theorem zeroBanks_draws (s : State) : (s.zeroBanks).draws = s.draws := rfl
@[simp] theorem zeroBanks_answers (s : State) : (s.zeroBanks).answers = s.answers := rfl
@[simp] theorem zeroBanks_port (s : State) : (s.zeroBanks).port = s.port := rfl
@[simp] theorem zeroBanks_resp (s : State) : (s.zeroBanks).resp = s.resp := rfl
@[simp] theorem zeroBanks_calls (s : State) : (s.zeroBanks).calls = s.calls := rfl
@[simp] theorem zeroBanks_bus (s : State) (sp' : Space) : (s.zeroBanks).bus sp' = s.bus sp' := by
  cases sp' <;> rfl

/-! ### `accept` -/

@[simp] theorem accept_params (s : State) (e : Issue) (rest : List Issue) : (s.accept e rest).params = s.params := rfl
@[simp] theorem accept_rom (s : State) (e : Issue) (rest : List Issue) : (s.accept e rest).rom = s.rom := rfl
@[simp] theorem accept_prgBank (s : State) (e : Issue) (rest : List Issue) : (s.accept e rest).prgBank = s.prgBank := rfl
@[simp] theorem accept_chrBank (s : State) (e : Issue) (rest : List Issue) : (s.accept e rest).chrBank = s.chrBank := rfl
@[simp] theorem accept_mirrorMode (s : State) (e : Issue) (rest : List Issue) : (s.accept e rest).mirrorMode = s.mirrorMode := rfl
@[simp] theorem accept_irq (s : State) (e : Issue) (rest : List Issue) : (s.accept e rest).irq = s.irq := rfl
@[simp] theorem accept_irqOut (s : State) (e : Issue) (rest : List Issue) : (s.accept e rest).irqOut = s.irqOut := rfl
@[simp] theorem accept_tramp (s : State) (e : Issue) (rest : List Issue) : (s.accept e rest).tramp = s.tramp := rfl
@[simp] theorem accept_family (s : State) (e : Issue) (rest : List Issue) : (s.accept e rest).family = s.family := rfl
@[simp] theorem accept_chrRam (s : State) (e : Issue) (rest : List Issue) : (s.accept e rest).chrRam = s.chrRam := rfl
@[simp] theorem accept_phase (s : State) (e : Issue) (rest : List Issue) : (s.accept e rest).phase = s.phase := rfl
@[simp] theorem accept_draws (s : State) (e : Issue) (rest : List Issue) : (s.accept e rest).draws = s.draws := rfl
@[simp] theorem accept_answers (s : State) (e : Issue) (rest : List Issue) : (s.accept e rest).answers = s.answers := rfl
@[simp] theorem accept_bus (s : State) (e : Issue) (rest : List Issue) (sp' : Space) : (s.accept e rest).bus sp' = s.bus sp' := by
  cases sp' <;> rfl

/-! ### What each operation writes -/

@[simp] theorem setBus_bus (s : State) (sp : Space) (b : Bus) (sp' : Space) :
    (s.setBus sp b).bus sp' = if sp' = sp then b else s.bus sp' := by
  cases sp <;> cases sp' <;> rfl

@[simp] theorem setLast_bus (s : State) (sp : Space) (v : Byte) (sp' : Space) :
    (s.setLast sp v).bus sp' = if sp' = sp then { s.bus sp with last := v } else s.bus sp' :=
  setBus_bus s sp _ sp'

@[simp] theorem putReadEntry_bus (s : State) (sp : Space) (a : Addr) (h : ReadRef) (sp' : Space) :
    (s.putReadEntry sp a h).bus sp' =
      if sp' = sp then { s.bus sp with rd := tablePut readPowerOn (s.bus sp).rd (entryIndex sp a) h }
      else s.bus sp' :=
  setBus_bus s sp _ sp'

@[simp] theorem putWriteEntry_bus (s : State) (sp : Space) (a : Addr) (h : WriteRef) (sp' : Space) :
    (s.putWriteEntry sp a h).bus sp' =
      if sp' = sp then { s.bus sp with wr := tablePut writePowerOn (s.bus sp).wr (entryIndex sp a) h }
      else s.bus sp' :=
  setBus_bus s sp _ sp'

@[simp] theorem fillEntries_bus (s : State) (sp : Space) (lo n : Nat) (rd : Nat → ReadRef)
    (wr : Nat → WriteRef) (sp' : Space) :
    (s.fillEntries sp lo n rd wr).bus sp' =
      if sp' = sp then
        { s.bus sp with
          rd := tableFill readPowerOn (s.bus sp).rd lo n rd
          wr := tableFill writePowerOn (s.bus sp).wr lo n wr }
      else s.bus sp' :=
  setBus_bus s sp _ sp'

@[simp] theorem putStore_bus (s : State) (sp : Space) (i : Nat) (v : Byte) (sp' : Space) :
    (s.putStore sp i v).bus sp' =
      if sp' = sp then { s.bus sp with store := memPut (s.bus sp).store i v } else s.bus sp' :=
  setBus_bus s sp _ sp'

@[simp] theorem dropTramps_bus (s : State) (sp : Space) :
    s.dropTramps.bus sp =
      { s.bus sp with rd := tableDropTramps (s.bus sp).rd, wr := tableDropTramps (s.bus sp).wr } := by
  cases sp <;> rfl

@[simp] theorem releaseEntries_bus (s : State) (sp : Space) :
    s.releaseEntries.bus sp =
      { s.bus sp with rd := tableRelease (s.bus sp).rd, wr := tableRelease (s.bus sp).wr } := by
  cases sp <;> rfl

@[simp] theorem dropTramps_tramp (s : State) : s.dropTramps.tramp = [] := rfl
@[simp] theorem releaseEntries_tramp (s : State) : s.releaseEntries.tramp = [] := rfl
@[simp] theorem putChrRam_chrRam (s : State) (i : Nat) (v : Byte) :
    (s.putChrRam i v).chrRam = memPut s.chrRam i v := rfl
@[simp] theorem setPrgBank_prgBank (s : State) (slot : Slot) (size : Nat) (idx : Int) :
    (s.setPrgBank slot size idx).prgBank = slotSet s.prgBank slot (normalizeBank idx s.prgSize size) := rfl
@[simp] theorem setChrBank_chrBank (s : State) (slot : Slot) (size : Nat) (idx : Int) :
    (s.setChrBank slot size idx).chrBank = slotSet s.chrBank slot (normalizeBank idx s.chrMemSize size) := rfl
@[simp] theorem setMirrorCode_mirrorMode (s : State) (code : BitVec 3) :
    (s.setMirrorCode code).mirrorMode = (mirrorOfCode code).getD s.mirrorMode := rfl
@[simp] theorem setMirror_mirrorMode (s : State) (m : MirrorMode) : (s.setMirror m).mirrorMode = m := by
  cases m <;> rfl
@[simp] theorem setIrq_irq (s : State) (r : IrqState) : (s.setIrq r).irq = r := rfl
@[simp] theorem setFamily_family (s : State) (r : FamilyState) : (s.setFamily r).family = r := rfl
@[simp] theorem irqAssert_irqOut (s : State) : s.irqAssert.irqOut = true := rfl
@[simp] theorem irqAssert_calls (s : State) : s.irqAssert.calls = s.calls ++ [.irq] := rfl
@[simp] theorem irqClear_irqOut (s : State) : s.irqClear.irqOut = false := rfl
@[simp] theorem irqClear_calls (s : State) : s.irqClear.calls = s.calls ++ [.clearIrq] := rfl
@[simp] theorem respond_resp (s : State) (r : Answer) :
    (s.respond r).resp = some (responseOf (Config.freeResp s.answers) r) := rfl
@[simp] theorem respond_answers (s : State) (r : Answer) : (s.respond r).answers = s.answers + 1 := rfl
@[simp] theorem addRecord_tramp (s : State) (p : PrevRef) :
    (s.addRecord p).tramp = s.tramp ++ [⟨p, .mapper⟩] := rfl
@[simp] theorem zeroBanks_prgBank (s : State) : s.zeroBanks.prgBank = slotsZero := rfl
@[simp] theorem zeroBanks_chrBank (s : State) : s.zeroBanks.chrBank = slotsZero := rfl
@[simp] theorem accept_port (s : State) (e : Issue) (rest : List Issue) : (s.accept e rest).port = rest := rfl
@[simp] theorem accept_wires (s : State) (e : Issue) (rest : List Issue) : (s.accept e rest).wires = e.wires := rfl
@[simp] theorem accept_resp (s : State) (e : Issue) (rest : List Issue) : (s.accept e rest).resp = none := rfl
@[simp] theorem accept_calls (s : State) (e : Issue) (rest : List Issue) : (s.accept e rest).calls = [] := rfl

/-! ### Derived readings -/

@[simp] theorem bus_cpu (s : State) : s.bus .cpu = s.cpu := rfl
@[simp] theorem bus_ppu (s : State) : s.bus .ppu = s.ppu := rfl

/-- Two states are equal when their fields and their two buses are. -/
theorem state_ext {s t : State} (h1 : s.params = t.params) (h2 : s.wires = t.wires) (h3 : s.rom = t.rom)
    (h4 : ∀ sp, s.bus sp = t.bus sp) (h5 : s.prgBank = t.prgBank) (h6 : s.chrBank = t.chrBank)
    (h7 : s.mirrorMode = t.mirrorMode) (h8 : s.irq = t.irq) (h9 : s.irqOut = t.irqOut)
    (h10 : s.tramp = t.tramp) (h11 : s.family = t.family) (h12 : s.chrRam = t.chrRam)
    (h13 : s.phase = t.phase) (h14 : s.draws = t.draws) (h15 : s.port = t.port) (h16 : s.resp = t.resp)
    (h17 : s.calls = t.calls) (h18 : s.answers = t.answers) : s = t := by
  have hc : s.cpu = t.cpu := h4 .cpu
  have hp : s.ppu = t.ppu := h4 .ppu
  cases s; cases t
  simp only at *
  subst_vars
  rfl

end Sys2Proof.Laws
end

