-- ==== Sys2Proof/Laws/Ops.lean ====
section
/-! SUPPORT. What the shared operations do, one lemma each: the slot file, bank normalisation, halves of a 16-bit
register, mirror translation, reads of a byte after an operation, entries after an operation, and the
forwarding chain of a trampoline. -/

namespace Sys2Proof.Laws

open Sys2Proof Sys2Proof.Machine

/-! ### Words -/

theorem toNat_append (m n : Nat) (x : BitVec m) (y : BitVec n) : (x ++ y).toNat = x.toNat * 2 ^ n + y.toNat := by
  rw [BitVec.toNat_append, ← Nat.shiftLeft_add_eq_or_of_lt y.isLt, Nat.shiftLeft_eq]

theorem setLow_toNat (w : BitVec 16) (v : Byte) : (setLow w v).toNat = 256 * (w.toNat / 256) + v.toNat := by
  have := w.isLt
  unfold setLow
  rw [toNat_append, BitVec.extractLsb'_toNat, Nat.shiftRight_eq_div_pow]
  omega

theorem setHigh_toNat (w : BitVec 16) (v : Byte) : (setHigh w v).toNat = 256 * v.toNat + w.toNat % 256 := by
  unfold setHigh
  rw [toNat_append, BitVec.extractLsb'_toNat, Nat.shiftRight_eq_div_pow]
  omega

theorem lowByte_toNat (w : BitVec 16) : (lowByte w).toNat = w.toNat % 256 := by
  unfold lowByte
  rw [BitVec.extractLsb'_toNat, Nat.shiftRight_eq_div_pow]
  simp

theorem getLsbD_iff {n : Nat} (w : BitVec n) (i : Nat) : w.getLsbD i = decide (w.toNat / 2 ^ i % 2 = 1) := by
  rw [← BitVec.testBit_toNat, Nat.testBit_eq_decide_div_mod_eq]

/-! ### Named parameters, the VRC control bits, responses (R7, R31, R90) -/

@[simp] theorem spaceSize_cpu : spaceSize .cpu = 65536 := rfl

@[simp] theorem spaceSize_ppu : spaceSize .ppu = 16384 := rfl

/-- Each bit after an acknowledge: E takes A, the others stay (R186). -/
theorem ctrlAck_getLsbD (l : VrcBits) (c : BitVec 4) (j : Fin 4) :
    (ctrlAck l c).getLsbD j = if j = l.e then c.getLsbD l.a else c.getLsbD j := by
  have h : ∀ (c : BitVec 4) (j a e : Fin 4),
      ((c &&& ~~~(1#4 <<< e.val)) ||| ((BitVec.ofBool (c.getLsbD a)).setWidth 4 <<< e.val)).getLsbD j
        = if j = e then c.getLsbD a else c.getLsbD j := by decide
  exact h c j l.a l.e

/-- A byte answered is the low byte of `resp` (R91). -/
theorem responseOf_byte (free : BitVec 16) (v : Byte) :
    ∃ w, responseOf free (.byte v) = .value w ∧ w.extractLsb' 0 8 = v :=
  ⟨_, rfl, by apply BitVec.eq_of_toNat_eq; rw [BitVec.extractLsb'_toNat, toNat_append]; have := v.isLt; omega⟩

/-- A flag answered is bit 0 of `resp` (R91). -/
theorem responseOf_flag (free : BitVec 16) (b : Bool) :
    ∃ w, responseOf free (.flag b) = .value w ∧ w.getLsbD 0 = b :=
  ⟨_, rfl, by rw [BitVec.getLsbD_append]; cases b <;> rfl⟩

theorem a12Sampled_eq (a : Addr) : a12Sampled a = decide (a.toNat < 0x2000) := rfl

/-! ### The slot file -/

theorem slotGet_slotSet (f : SlotFile) (s x : Slot) (v : Byte) :
    slotGet (slotSet f s v) x = if x = s then v else slotGet f x := by
  unfold slotGet slotSet
  rw [Vector.getElem_set]
  by_cases h : x = s
  · simp [h]
  · have : ¬ s.toNat = x.toNat := fun h' => h (BitVec.eq_of_toNat_eq h'.symm)
    simp [h, this]

theorem slotGet_slotMap (g : Byte → Byte) (f : SlotFile) (x : Slot) :
    slotGet (slotMap g f) x = g (slotGet f x) := by
  simp [slotGet, slotMap]

theorem slotGet_zero (x : Slot) : slotGet slotsZero x = 0 := by
  simp [slotGet, slotsZero]

theorem slotFile_ext {f g : SlotFile} (h : ∀ x, slotGet f x = slotGet g x) : f = g := by
  apply Vector.ext
  intro i hi
  have hi' : i < 32 := hi
  simpa [slotGet, Nat.mod_eq_of_lt hi'] using h (BitVec.ofNat 5 i)

theorem regGet_regSet (r : Vector Byte 8) (i j : BitVec 3) (v : Byte) :
    regGet (regSet r i v) j = if j = i then v else regGet r j := by
  unfold regGet regSet
  rw [Vector.getElem_set]
  by_cases h : j = i
  · simp [h]
  · have : ¬ i.toNat = j.toNat := fun h' => h (BitVec.eq_of_toNat_eq h'.symm)
    simp [h, this]

/-! ### Bank normalisation (R140) -/

theorem neg_emod_nat (k n : Nat) (hn : 0 < n) : (-(k : Int)) % (n : Int) = (((n - k % n) % n : Nat) : Int) := by
  have hlt := Nat.mod_lt k hn
  have hk : (k : Int) = n * (k / n : Nat) + (k % n : Nat) := by exact_mod_cast (Nat.div_add_mod k n).symm
  have e : -(k : Int) = ((n - k % n : Nat) : Int) + n * (-((k / n : Nat) : Int) - 1) := by
    rw [Int.natCast_sub (Nat.le_of_lt hlt)]
    linear_combination -hk
  rw [e, Int.add_mul_emod_self_left, Int.natCast_mod]

theorem normalizeBank_none (idx : Int) (mem size : Nat) (h : mem / size = 0) : normalizeBank idx mem size = 0 := by
  simp [normalizeBank, h]

/-- The normalised index is the low byte of the non-negative remainder by the number of banks. -/
theorem normalizeBank_toNat (idx : Int) (mem size : Nat) (h : mem / size ≠ 0) :
    ((normalizeBank idx mem size).toNat : Int) = idx % ((mem / size : Nat) : Int) % 256 := by
  unfold normalizeBank
  simp only [h, if_false]
  generalize mem / size = n at *
  have hn : 0 < n := Nat.pos_of_ne_zero h
  split
  · next hi =>
    obtain ⟨k, rfl⟩ : ∃ k : Nat, idx = -(k : Int) := ⟨(-idx).toNat, by omega⟩
    simp only [Int.neg_neg, Int.toNat_natCast, BitVec.toNat_ofNat]
    rw [neg_emod_nat k n hn]
    omega
  · next hi =>
    obtain ⟨k, rfl⟩ : ∃ k : Nat, idx = (k : Int) := ⟨idx.toNat, by omega⟩
    simp only [Int.toNat_natCast, BitVec.toNat_ofNat]
    omega

/-- A normalised index is below the number of banks, or 0 (R27, R140). -/
theorem normalizeBank_lt (idx : Int) (mem size : Nat) :
    (normalizeBank idx mem size).toNat < max 1 (mem / size) := by
  by_cases h : mem / size = 0
  · simp [normalizeBank_none _ _ _ h]
  · have h1 := normalizeBank_toNat idx mem size h
    generalize mem / size = n at *
    have h2 := Int.emod_lt_of_pos idx (b := (n : Int)) (by omega)
    have h3 := Int.emod_nonneg idx (b := (n : Int)) (by omega)
    omega

/-- Normalising an index in range changes nothing. -/
theorem normalizeBank_of_lt (b : Byte) (mem size : Nat) (h : b.toNat < mem / size) :
    normalizeBank b.toNat mem size = b := by
  apply BitVec.eq_of_toNat_eq
  have h1 := normalizeBank_toNat b.toNat mem size (Nat.ne_of_gt (Nat.zero_lt_of_lt h))
  generalize mem / size = n at *
  have e := Int.emod_eq_of_lt (a := (b.toNat : Int)) (b := (n : Int)) (by omega) (by omega)
  rw [e] at h1
  have := b.isLt
  omega

/-- Normalising a stored index twice is normalising it once (R143). -/
theorem normalizeBank_idem (b : Byte) (mem size : Nat) :
    normalizeBank (normalizeBank b.toNat mem size).toNat mem size = normalizeBank b.toNat mem size := by
  by_cases h : mem / size = 0
  · simp [normalizeBank_none _ _ _ h]
  · have hlt := normalizeBank_lt b.toNat mem size
    rw [Nat.max_eq_right (Nat.pos_of_ne_zero h)] at hlt
    exact normalizeBank_of_lt _ _ _ hlt

/-! ### Mirror translation (R160, R161) -/

theorem physWindow_idem (mode : MirrorMode) (w : BitVec 2) :
    physWindow mode (physWindow mode w) = physWindow mode w := by
  revert w; cases mode <;> decide

/-- `$2000 | x` is `$2000 + x` below `$1000`. -/
theorem nametableBase_or (x : BitVec 12) :
    (BitVec.ofNat 16 Config.nametableBase ||| (0#4 ++ x)).toNat = 0x2000 + x.toNat := by
  rw [BitVec.toNat_or, toNat_append]
  have h := Nat.shiftLeft_add_eq_or_of_lt (i := 13) (b := x.toNat) (by omega) 1
  simpa [Config.nametableBase] using h.symm

theorem mirrorAddress_toNat (a : Addr) (mode : MirrorMode) :
    (mirrorAddress a mode).toNat
      = 0x2000 + (physWindow mode (a.extractLsb' 10 2)).toNat * 1024 + a.toNat % 1024 := by
  unfold mirrorAddress
  rw [nametableBase_or, toNat_append, BitVec.extractLsb'_toNat]
  simp
  omega

/-- Mirror translation lands below `$3000`, inside either store. -/
theorem mirrorAddress_lt (a : Addr) (mode : MirrorMode) : (mirrorAddress a mode).toNat < 0x3000 := by
  rw [mirrorAddress_toNat]
  have := (physWindow mode (a.extractLsb' 10 2)).isLt
  omega

theorem mirrorAddress_idem (a : Addr) (mode : MirrorMode) :
    mirrorAddress (mirrorAddress a mode) mode = mirrorAddress a mode := by
  have hw : (mirrorAddress a mode).extractLsb' 10 2 = physWindow mode (a.extractLsb' 10 2) := by
    apply BitVec.eq_of_toNat_eq
    rw [BitVec.extractLsb'_toNat, mirrorAddress_toNat, Nat.shiftRight_eq_div_pow]
    have := (physWindow mode (a.extractLsb' 10 2)).isLt
    omega
  apply BitVec.eq_of_toNat_eq
  rw [mirrorAddress_toNat (mirrorAddress a mode), hw, physWindow_idem, mirrorAddress_toNat]
  omega

/-! ### Table entries after an operation -/

theorem entryIndex_of_lt (sp : Space) (a : Addr) (h : a.toNat < spaceSize sp) : entryIndex sp a = a.toNat := by
  cases sp <;> simp [entryIndex] at *; omega

theorem entryIndex_ofNat (sp : Space) (a : Nat) (h : a < spaceSize sp) : entryIndex sp (BitVec.ofNat 16 a) = a := by
  cases sp <;> simp [entryIndex] at * <;> omega

theorem readEntry_putReadEntry (s : State) (sp : Space) (a : Addr) (h : ReadRef) (sp' : Space) (b : Addr) :
    (s.putReadEntry sp a h).readEntry sp' b
      = if sp' = sp ∧ entryIndex sp b = entryIndex sp a then h else s.readEntry sp' b := by
  unfold State.readEntry
  rw [putReadEntry_bus]
  by_cases hs : sp' = sp
  · subst hs; simp [tableGet_tablePut]
  · simp [hs]

theorem writeEntry_putWriteEntry (s : State) (sp : Space) (a : Addr) (h : WriteRef) (sp' : Space) (b : Addr) :
    (s.putWriteEntry sp a h).writeEntry sp' b
      = if sp' = sp ∧ entryIndex sp b = entryIndex sp a then h else s.writeEntry sp' b := by
  unfold State.writeEntry
  rw [putWriteEntry_bus]
  by_cases hs : sp' = sp
  · subst hs; simp [tableGet_tablePut]
  · simp [hs]

theorem putReadEntry_wr (s : State) (sp : Space) (a : Addr) (h : ReadRef) (sp' : Space) :
    ((s.putReadEntry sp a h).bus sp').wr = (s.bus sp').wr := by
  rw [putReadEntry_bus]; split <;> simp_all

theorem putWriteEntry_rd (s : State) (sp : Space) (a : Addr) (h : WriteRef) (sp' : Space) :
    ((s.putWriteEntry sp a h).bus sp').rd = (s.bus sp').rd := by
  rw [putWriteEntry_bus]; split <;> simp_all

theorem writeEntry_putReadEntry (s : State) (sp : Space) (a : Addr) (h : ReadRef) (sp' : Space) (b : Addr) :
    (s.putReadEntry sp a h).writeEntry sp' b = s.writeEntry sp' b := by
  unfold State.writeEntry; rw [putReadEntry_wr]

theorem readEntry_fillEntries (s : State) (sp : Space) (lo n : Nat) (rd : Nat → ReadRef) (wr : Nat → WriteRef)
    (sp' : Space) (a : Addr) :
    (s.fillEntries sp lo n rd wr).readEntry sp' a
      = if sp' = sp ∧ lo ≤ entryIndex sp a ∧ entryIndex sp a < lo + n then rd (entryIndex sp a)
        else s.readEntry sp' a := by
  unfold State.readEntry
  rw [fillEntries_bus]
  by_cases hs : sp' = sp
  · subst hs; simp [tableGet_tableFill]
  · simp [hs]

theorem writeEntry_fillEntries (s : State) (sp : Space) (lo n : Nat) (rd : Nat → ReadRef) (wr : Nat → WriteRef)
    (sp' : Space) (a : Addr) :
    (s.fillEntries sp lo n rd wr).writeEntry sp' a
      = if sp' = sp ∧ lo ≤ entryIndex sp a ∧ entryIndex sp a < lo + n then wr (entryIndex sp a)
        else s.writeEntry sp' a := by
  unfold State.writeEntry
  rw [fillEntries_bus]
  by_cases hs : sp' = sp
  · subst hs; simp [tableGet_tableFill]
  · simp [hs]

theorem readEntry_dropTramps {s : State} (h : s.tablesWf) (sp : Space) (a : Addr) :
    s.dropTramps.readEntry sp a
      = if ctxIsTramp (s.readEntry sp a).ctx then readPowerOn else s.readEntry sp a := by
  unfold State.readEntry
  rw [dropTramps_bus]
  exact tableGet_dropTramps (h sp).1.1 rfl _

theorem writeEntry_dropTramps {s : State} (h : s.tablesWf) (sp : Space) (a : Addr) :
    s.dropTramps.writeEntry sp a
      = if ctxIsTramp (s.writeEntry sp a).ctx then writePowerOn else s.writeEntry sp a := by
  unfold State.writeEntry
  rw [dropTramps_bus]
  exact tableGet_dropTramps (h sp).2.1 rfl _

theorem ctxRefersToMapper_eq (c : Ctx) : ctxRefersToMapper c = !decide (c = .none) := by
  cases c <;> rfl

theorem readEntry_releaseEntries {s : State} (h : s.tablesWf) (sp : Space) (a : Addr) :
    s.releaseEntries.readEntry sp a
      = if (s.readEntry sp a).ctx = .none then s.readEntry sp a else readPowerOn := by
  have := tableGet_release (h sp).1.1 (d := readPowerOn) rfl (entryIndex sp a)
  unfold State.readEntry
  rw [releaseEntries_bus, this, ctxRefersToMapper_eq]
  by_cases hc : (tableGet readPowerOn (s.bus sp).rd (entryIndex sp a)).ctx = .none <;> simp [hc]

theorem writeEntry_releaseEntries {s : State} (h : s.tablesWf) (sp : Space) (a : Addr) :
    s.releaseEntries.writeEntry sp a
      = if (s.writeEntry sp a).ctx = .none then s.writeEntry sp a else writePowerOn := by
  have := tableGet_release (h sp).2.1 (d := writePowerOn) rfl (entryIndex sp a)
  unfold State.writeEntry
  rw [releaseEntries_bus, this, ctxRefersToMapper_eq]
  by_cases hc : (tableGet writePowerOn (s.bus sp).wr (entryIndex sp a)).ctx = .none <;> simp [hc]

/-! ### Bytes after an operation -/

theorem storeByte_putStore (s : State) (sp : Space) (i : Nat) (v : Byte) (sp' : Space) (j : Nat) :
    (s.putStore sp i v).storeByte sp' j = if sp' = sp ∧ j = i then v else s.storeByte sp' j := by
  unfold State.storeByte
  rw [putStore_bus]
  by_cases hs : sp' = sp
  · subst hs
    simp only [if_true, true_and, memGet_memPut]
    by_cases hj : j = i <;> simp [hj]
  · simp [hs]

theorem chrRamByte_putChrRam (s : State) (i : Nat) (v : Byte) (j : Nat) :
    (s.putChrRam i v).chrRamByte j = if j = i then v else s.chrRamByte j := by
  unfold State.chrRamByte
  rw [putChrRam_chrRam, memGet_memPut]
  by_cases hj : j = i <;> simp [hj]

/-- A byte of a store depends on the store alone. -/
theorem storeByte_congr {s t : State} {sp : Space} (h : (t.bus sp).store = (s.bus sp).store) (i : Nat) :
    t.storeByte sp i = s.storeByte sp i := by
  unfold State.storeByte; rw [h]

/-- A byte of CHR-RAM depends on CHR-RAM alone. -/
theorem chrRamByte_congr {s t : State} (h : t.chrRam = s.chrRam) (i : Nat) :
    t.chrRamByte i = s.chrRamByte i := by
  unfold State.chrRamByte; rw [h]

theorem setLast_store (s : State) (sp : Space) (v : Byte) (sp' : Space) :
    ((s.setLast sp v).bus sp').store = (s.bus sp').store := by
  rw [setLast_bus]; split <;> simp_all

theorem setLast_rd (s : State) (sp : Space) (v : Byte) (sp' : Space) :
    ((s.setLast sp v).bus sp').rd = (s.bus sp').rd := by
  rw [setLast_bus]; split <;> simp_all

theorem setLast_wr (s : State) (sp : Space) (v : Byte) (sp' : Space) :
    ((s.setLast sp v).bus sp').wr = (s.bus sp').wr := by
  rw [setLast_bus]; split <;> simp_all

/-! ### Forwarding through trampolines (R222, R226) -/

theorem resolveRead_plain (recs : List TrampRecord) (fuel : Nat) (h : ReadRef) (hf : h.fn.isTramp = false) :
    resolveRead recs fuel h = some ([], h.fn, h.param) := by
  obtain ⟨fn, ctx, param⟩ := h
  cases fn <;> first | (cases fuel <;> cases ctx <;> rfl) | exact Bool.noConfusion hf

theorem resolveWrite_plain (recs : List TrampRecord) (fuel : Nat) (h : WriteRef) (hf : h.fn.isTramp = false) :
    resolveWrite recs fuel h = some ([], h.fn, h.param) := by
  obtain ⟨fn, ctx, param⟩ := h
  cases fn <;> first | (cases fuel <;> cases ctx <;> rfl) | exact Bool.noConfusion hf

theorem resolveRead_tramp {recs : List TrampRecord} {k : Nat} {p : ReadRef} {o : Ctx}
    (hk : recs[k]? = some ⟨.rd p, o⟩) (fuel : Nat) (se : SideEffect) (param : Addr) :
    resolveRead recs (fuel + 1) ⟨.tramp se, .tramp k, param⟩
      = (resolveRead recs fuel p).map (fun r => (se :: r.1, r.2)) := by
  exact resolveRead.eq_1 recs se k param fuel p o hk

theorem resolveWrite_tramp {recs : List TrampRecord} {k : Nat} {p : WriteRef} {o : Ctx}
    (hk : recs[k]? = some ⟨.wr p, o⟩) (fuel : Nat) (se : SideEffect) (param : Addr) :
    resolveWrite recs (fuel + 1) ⟨.tramp se, .tramp k, param⟩
      = (resolveWrite recs fuel p).map (fun r => (se :: r.1, r.2)) := by
  exact resolveWrite.eq_1 recs se k param fuel p o hk

/-- A sound reference below `n` ends, and any fuel from `n` up gives the same end. -/
theorem resolveRead_total {recs : List TrampRecord}
    (hr : ∀ k r, recs[k]? = some r → prevRefOk recs k r.prev) (n : Nat) (h : ReadRef)
    (hh : readRefOk recs n h) :
    ∃ r, r.2.1.isTramp = false ∧ ∀ fuel, n ≤ fuel → resolveRead recs fuel h = some r := by
  induction n using Nat.strong_induction_on generalizing h with
  | _ n ih =>
    cases ht : h.fn.isTramp with
    | false => exact ⟨_, ht, fun fuel _ => resolveRead_plain recs fuel h ht⟩
    | true =>
      obtain ⟨k, p, o, hc, hk, hrec⟩ := hh.2 ht
      obtain ⟨r, hr1, hr2⟩ := ih k hk p (hr k _ hrec)
      obtain ⟨fn, ctx, param⟩ := h
      simp only at hc ht
      subst hc
      cases fn with
      | tramp se =>
        refine ⟨(se :: r.1, r.2), hr1, fun fuel hf => ?_⟩
        obtain ⟨f, rfl⟩ : ∃ f, fuel = f + 1 := ⟨fuel - 1, by omega⟩
        rw [resolveRead_tramp hrec, hr2 f (by omega)]
        rfl
      | _ => simp [ReadKind.isTramp] at ht

theorem resolveWrite_total {recs : List TrampRecord}
    (hr : ∀ k r, recs[k]? = some r → prevRefOk recs k r.prev) (n : Nat) (h : WriteRef)
    (hh : writeRefOk recs n h) :
    ∃ r, r.2.1.isTramp = false ∧ ∀ fuel, n ≤ fuel → resolveWrite recs fuel h = some r := by
  induction n using Nat.strong_induction_on generalizing h with
  | _ n ih =>
    cases ht : h.fn.isTramp with
    | false => exact ⟨_, ht, fun fuel _ => resolveWrite_plain recs fuel h ht⟩
    | true =>
      obtain ⟨k, p, o, hc, hk, hrec⟩ := hh.2 ht
      obtain ⟨r, hr1, hr2⟩ := ih k hk p (hr k _ hrec)
      obtain ⟨fn, ctx, param⟩ := h
      simp only at hc ht
      subst hc
      cases fn with
      | tramp se =>
        refine ⟨(se :: r.1, r.2), hr1, fun fuel hf => ?_⟩
        obtain ⟨f, rfl⟩ : ∃ f, fuel = f + 1 := ⟨fuel - 1, by omega⟩
        rw [resolveWrite_tramp hrec, hr2 f (by omega)]
        rfl
      | _ => simp [WriteKind.isTramp] at ht

/-- The entry an access uses is one of the table, or the power-on entry. -/
theorem readEntry_ok {s : State} (h : s.trampsOk) (sp : Space) (a : Addr) :
    readRefOk s.tramp s.tramp.length (s.readEntry sp a) := by
  unfold State.readEntry tableGet
  cases hg : assocGet (s.bus sp).rd (entryIndex sp a) with
  | none => exact ⟨fun _ => rfl, fun hh => by simp [readPowerOn, ReadKind.isTramp] at hh⟩
  | some e => exact (h.1 sp).1 _ (assocGet_mem hg)

theorem writeEntry_ok {s : State} (h : s.trampsOk) (sp : Space) (a : Addr) :
    writeRefOk s.tramp s.tramp.length (s.writeEntry sp a) := by
  unfold State.writeEntry tableGet
  cases hg : assocGet (s.bus sp).wr (entryIndex sp a) with
  | none => exact ⟨fun _ => rfl, fun hh => by simp [writePowerOn, WriteKind.isTramp] at hh⟩
  | some e => exact (h.1 sp).2 _ (assocGet_mem hg)

/-- A side effect changes the family state and nothing else. -/
theorem runSideEffect_eq (s : State) (se : SideEffect) :
    s.runSideEffect se = s.setFamily (s.runSideEffect se).family := by
  cases se with
  | latch w st => unfold State.runSideEffect; cases hf : s.family <;> simp [State.setFamily, hf] <;> rw [← hf]

theorem runSideEffects_eq (s : State) (l : List SideEffect) :
    s.runSideEffects l = s.setFamily (s.runSideEffects l).family := by
  induction l generalizing s with
  | nil => rfl
  | cons se t ih => unfold State.runSideEffects; rw [ih, runSideEffect_eq]; rfl

theorem runSideEffect_setLast (s : State) (se : SideEffect) (sp : Space) (v : Byte) :
    (s.setLast sp v).runSideEffect se = (s.runSideEffect se).setLast sp v := by
  cases se with
  | latch w st =>
    unfold State.runSideEffect
    rw [setLast_family]
    cases s.family <;> cases sp <;> rfl

/-- Running the instruction of a kind is dispatching to a reference with that kind (R124). -/
theorem exec_readInstr (s : State) (sp : Space) (h : ReadRef)
    (hh : readRefOk s.tramp s.tramp.length h) :
    exec (readInstr ⟨sp, h.param⟩ (ctxIndex h.ctx) h.fn) s = dispatchRead h sp s := by
  obtain ⟨fn, ctx, param⟩ := h
  cases hf : fn.isTramp with
  | false =>
    unfold dispatchRead
    rw [resolveRead_plain _ _ _ hf]
    cases fn <;> first | rfl | exact Bool.noConfusion hf
  | true =>
    obtain ⟨k, p, o, hc, _, _⟩ := hh.2 hf
    simp only at hc
    subst hc
    cases fn <;> first | rfl | exact Bool.noConfusion hf

theorem exec_writeInstr (s : State) (sp : Space) (v : Byte) (h : WriteRef)
    (hh : writeRefOk s.tramp s.tramp.length h) :
    exec (writeInstr ⟨sp, h.param, v⟩ (ctxIndex h.ctx) h.fn) s = dispatchWrite h sp v s := by
  obtain ⟨fn, ctx, param⟩ := h
  cases hf : fn.isTramp with
  | false =>
    unfold dispatchWrite
    rw [resolveWrite_plain _ _ _ hf]
    cases fn <;> first | rfl | exact Bool.noConfusion hf
  | true =>
    obtain ⟨k, p, o, hc, _, _⟩ := hh.2 hf
    simp only at hc
    subst hc
    cases fn <;> first | rfl | exact Bool.noConfusion hf

/-! ### What an operation can change: all else is as before -/

theorem stepIrq_changes (s : State) (r : IrqState) (b : Bool) :
    ∃ out calls, s.stepIrq r b = { s with irq := r, irqOut := out, calls := calls } := by
  cases b
  · exact ⟨s.irqOut, s.calls, rfl⟩
  · exact ⟨true, s.calls ++ [.irq], rfl⟩

theorem unchanged_irq (s : State) : ∃ irq out calls, s = { s with irq := irq, irqOut := out, calls := calls } :=
  ⟨s.irq, s.irqOut, s.calls, rfl⟩

theorem tickIrq_changes (s : State) :
    ∃ irq out calls, s.tickIrq = { s with irq := irq, irqOut := out, calls := calls } := by
  unfold State.tickIrq
  split
  · exact ⟨_, stepIrq_changes _ _ _⟩
  · exact ⟨_, stepIrq_changes _ _ _⟩
  · exact unchanged_irq s
  · exact unchanged_irq s

theorem a12Sample_changes (s : State) (a : Addr) :
    ∃ irq out calls, s.a12Sample a = { s with irq := irq, irqOut := out, calls := calls } := by
  unfold State.a12Sample
  split
  · split
    · exact ⟨_, stepIrq_changes _ _ _⟩
    · exact unchanged_irq s
  · exact unchanged_irq s
  · exact unchanged_irq s
  · exact unchanged_irq s

/-- A read kind changes the counter, the line, the sink's calls and the draws at most (R64). -/
theorem runRead_changes (fn : ReadKind) (sp : Space) (param : Addr) (out : Byte) (s : State) :
    ∃ irq line calls draws, (runRead fn sp param out s).1
      = { s with irq := irq, irqOut := line, calls := calls, draws := draws } := by
  have same : ∃ irq line calls draws, s = { s with irq := irq, irqOut := line, calls := calls, draws := draws } :=
    ⟨s.irq, s.irqOut, s.calls, s.draws, rfl⟩
  cases fn
  case external => exact ⟨s.irq, s.irqOut, s.calls, s.draws + 1, rfl⟩
  case chrA12 slot n =>
    obtain ⟨i, l, c, h⟩ := a12Sample_changes s param
    exact ⟨i, l, c, s.draws, h⟩
  case chrLatched w a n b =>
    simp only [runRead, kindRdChrLatched]
    split
    · split <;> exact same
    all_goals exact same
  all_goals exact same

/-- A bank, mirror or family write changes those groups at most. -/
theorem setPrgBank_changes (s : State) (slot : Slot) (size : Nat) (idx : Int) :
    ∃ p, s.setPrgBank slot size idx = { s with prgBank := p } := ⟨_, rfl⟩

theorem changes_banks {s t : State} (h1 : t.params = s.params) (h2 : t.wires = s.wires) (h3 : t.rom = s.rom)
    (h4 : ∀ sp, t.bus sp = s.bus sp) (h5 : t.irq = s.irq) (h6 : t.irqOut = s.irqOut) (h7 : t.tramp = s.tramp)
    (h8 : t.family = s.family) (h9 : t.chrRam = s.chrRam) (h10 : t.phase = s.phase) (h11 : t.draws = s.draws)
    (h12 : t.port = s.port) (h13 : t.resp = s.resp) (h14 : t.calls = s.calls)
    (h15 : t.answers = s.answers) :
    t = { s with prgBank := t.prgBank, chrBank := t.chrBank, mirrorMode := t.mirrorMode } :=
  state_ext h1 h2 h3 h4 rfl rfl rfl h5 h6 h7 h8 h9 h10 h11 h12 h13 h14 h15

theorem serialRecompute_changes (s : State) (r : Serial) :
    ∃ p c m, s.serialRecompute r = { s with prgBank := p, chrBank := c, mirrorMode := m } := by
  refine ⟨_, _, _, changes_banks ?_ ?_ ?_ ?_ ?_ ?_ ?_ ?_ ?_ ?_ ?_ ?_ ?_ ?_ ?_⟩
  all_goals
    simp only [State.serialRecompute, State.serialChr, State.serialPrg]
    repeat' split
    all_goals simp

theorem indexedRecompute_changes (s : State) (r : Indexed) :
    ∃ p c, s.indexedRecompute r = { s with prgBank := p, chrBank := c } := by
  have h : s.indexedRecompute r = { s with
      prgBank := (s.indexedRecompute r).prgBank, chrBank := (s.indexedRecompute r).chrBank
      mirrorMode := (s.indexedRecompute r).mirrorMode } := by
    refine changes_banks ?_ ?_ ?_ ?_ ?_ ?_ ?_ ?_ ?_ ?_ ?_ ?_ ?_ ?_ ?_
    all_goals
      simp only [State.indexedRecompute, State.indexedChr, State.indexedPrg]
      repeat' split
      all_goals simp
  have hm : (s.indexedRecompute r).mirrorMode = s.mirrorMode := by
    simp only [State.indexedRecompute, State.indexedChr, State.indexedPrg]
    split <;> simp
  rw [hm] at h
  exact ⟨_, _, h⟩

/-- A write kind changes the store of its bus, CHR-RAM, the bank registers, the mirror mode, the counter, the line,
the sink's calls and the family state at most: never a table, a record, a last bus value or the phase. -/
theorem runWrite_changes (fn : WriteKind) (sp : Space) (param : Addr) (v : Byte) (s : State) :
    ∃ st pb cb m irq line calls fam ram, runWrite fn sp param v s
      = { s.setBus sp { s.bus sp with store := st } with
          prgBank := pb, chrBank := cb, mirrorMode := m, irq := irq, irqOut := line, calls := calls
          family := fam, chrRam := ram } := by
  have bus : ∀ t : State, t.setBus sp { t.bus sp with store := (t.bus sp).store } = t := by
    intro t; cases sp <;> rfl
  have lift : ∀ t : State, (∃ pb cb m irq line calls fam ram, t = { s with
          prgBank := pb, chrBank := cb, mirrorMode := m, irq := irq, irqOut := line, calls := calls
          family := fam, chrRam := ram }) →
      ∃ st pb cb m irq line calls fam ram, t
      = { s.setBus sp { s.bus sp with store := st } with
          prgBank := pb, chrBank := cb, mirrorMode := m, irq := irq, irqOut := line, calls := calls
          family := fam, chrRam := ram } := by
    rintro t ⟨pb, cb, m, irq, line, calls, fam, ram, h⟩
    exact ⟨(s.bus sp).store, pb, cb, m, irq, line, calls, fam, ram, by rw [h, bus s]⟩
  have same : ∃ pb cb m irq line calls fam ram, s = { s with
          prgBank := pb, chrBank := cb, mirrorMode := m, irq := irq, irqOut := line, calls := calls
          family := fam, chrRam := ram } := ⟨_, _, _, _, _, _, _, _, rfl⟩
  have put : ∀ a, ∃ st pb cb m irq line calls fam ram, s.putStore sp a v
      = { s.setBus sp { s.bus sp with store := st } with
          prgBank := pb, chrBank := cb, mirrorMode := m, irq := irq, irqOut := line, calls := calls
          family := fam, chrRam := ram } := fun a =>
    ⟨memPut (s.bus sp).store a v, s.prgBank, s.chrBank, s.mirrorMode, s.irq, s.irqOut, s.calls, s.family,
      s.chrRam, by cases sp <;> rfl⟩
  cases fn
  case store =>
    simp only [runWrite, kindWrStore]
    split
    · exact put _
    · exact lift _ same
  case ntDyn => exact put _
  case chr slot n =>
    apply lift; simp only [runWrite, kindWrChr, State.writeChr]
    split
    · exact ⟨_, _, _, _, _, _, _, _, rfl⟩
    · exact same
  case chrA12 slot n =>
    apply lift
    obtain ⟨i, l, c, h⟩ := a12Sample_changes s param
    simp only [runWrite, kindWrChrA12, kindWrChr, State.writeChr, h]
    split <;> exact ⟨_, _, _, _, _, _, _, _, rfl⟩
  case direct t slot n mask =>
    apply lift; simp only [runWrite, kindWrDirect]
    split <;> exact ⟨_, _, _, _, _, _, _, _, rfl⟩
  case shift =>
    apply lift; simp only [runWrite, kindWrShift]
    split
    · split
      · obtain ⟨p, c, m, h⟩ := serialRecompute_changes (s.setFamily (.serial _)) _
        rw [h]; exact ⟨_, _, _, _, _, _, _, _, rfl⟩
      · split
        · obtain ⟨p, c, m, h⟩ := serialRecompute_changes (s.setFamily (.serial _)) _
          rw [h]; exact ⟨_, _, _, _, _, _, _, _, rfl⟩
        · exact ⟨_, _, _, _, _, _, _, _, rfl⟩
    all_goals exact same
  case select =>
    apply lift; simp only [runWrite, kindWrSelect]
    split
    · obtain ⟨p, c, h⟩ := indexedRecompute_changes (s.setFamily (.indexed _)) _
      rw [h]; exact ⟨_, _, _, _, _, _, _, _, rfl⟩
    all_goals exact same
  case data =>
    apply lift; simp only [runWrite, kindWrData]
    split
    · obtain ⟨p, c, h⟩ := indexedRecompute_changes (s.setFamily (.indexed _)) _
      rw [h]; exact ⟨_, _, _, _, _, _, _, _, rfl⟩
    all_goals exact same
  case mirror style =>
    apply lift; simp only [runWrite, kindWrMirror]
    split
    · split <;> exact ⟨_, _, _, _, _, _, _, _, rfl⟩
    · exact same
  case m3Latch =>
    apply lift; simp only [runWrite, kindWrM3Latch]; split <;> exact ⟨_, _, _, _, _, _, _, _, rfl⟩
  case m3Reload =>
    apply lift; simp only [runWrite, kindWrM3Reload]; split <;> exact ⟨_, _, _, _, _, _, _, _, rfl⟩
  case m3Disable =>
    apply lift; simp only [runWrite, kindWrM3Disable]; split <;> exact ⟨_, _, _, _, _, _, _, _, rfl⟩
  case m3Enable =>
    apply lift; simp only [runWrite, kindWrM3Enable]; split <;> exact ⟨_, _, _, _, _, _, _, _, rfl⟩
  case vrcLatch =>
    apply lift; simp only [runWrite, kindWrVrcLatch]; split <;> exact ⟨_, _, _, _, _, _, _, _, rfl⟩
  case vrcLatchLo =>
    apply lift; simp only [runWrite, kindWrVrcLatchLo]; split <;> exact ⟨_, _, _, _, _, _, _, _, rfl⟩
  case vrcLatchHi =>
    apply lift; simp only [runWrite, kindWrVrcLatchHi]; split <;> exact ⟨_, _, _, _, _, _, _, _, rfl⟩
  case vrcCtrl =>
    apply lift; simp only [runWrite, kindWrVrcCtrl]; split <;> exact ⟨_, _, _, _, _, _, _, _, rfl⟩
  case vrcAck =>
    apply lift; simp only [runWrite, kindWrVrcAck]; split <;> exact ⟨_, _, _, _, _, _, _, _, rfl⟩
  all_goals exact lift _ same

/-- Initialising windows writes bank registers only (R302 step 2, R304). -/
theorem initWindows_changes (s : State) :
    ∃ p c, s.initWindows = { s with prgBank := p, chrBank := c } := by
  have prg : ∀ (l : List PrgWindow) (s : State),
      ∃ p, l.foldl State.initPrgWindow s = { s with prgBank := p } := by
    intro l
    induction l with
    | nil => exact fun s => ⟨_, rfl⟩
    | cons w t ih =>
      intro s
      obtain ⟨p, h⟩ := ih (s.initPrgWindow w)
      exact ⟨p, by rw [List.foldl_cons, h]; rfl⟩
  have chr : ∀ (l : List ChrWindow) (s : State),
      ∃ c, l.foldl State.initChrWindow s = { s with chrBank := c } := by
    intro l
    induction l with
    | nil => exact fun s => ⟨_, rfl⟩
    | cons w t ih =>
      intro s
      obtain ⟨c, h⟩ := ih (s.initChrWindow w)
      refine ⟨c, ?_⟩
      rw [List.foldl_cons, h]
      unfold State.initChrWindow
      split <;> rfl
  obtain ⟨p, hp⟩ := prg s.params.variant.prgWindows s
  obtain ⟨c, hc⟩ := chr s.params.variant.chrWindows { s with prgBank := p }
  exact ⟨p, c, by unfold State.initWindows; rw [hp, hc]⟩

end Sys2Proof.Laws
end

