-- ==== Sys2Proof/Laws/PerInstr.lean ====
section
/-! SUPPORT. One law per instruction about its encoding: the word the encoder writes is in the format of the
instruction's row of spec/opcode_table.json and carries the row's fixed byte, the only bits the table's masks
fix (spec/30_encoding.md R111). -/

namespace Sys2Proof.Laws.EncodesToRow

open Sys2Proof

/-- A row of the opcode table: its format, the lowest bit of its fixed byte, and that byte. -/
structure Row where
  format : Format
  lo : Nat
  code : Nat

/-- The row of an instruction's mnemonic. -/
def rowOf : Instr → Row
  | .init => ⟨.command, 80, 0x01⟩
  | .applymap => ⟨.command, 80, 0x02⟩
  | .tick => ⟨.command, 80, 0x03⟩
  | .reset => ⟨.command, 80, 0x04⟩
  | .savebatt => ⟨.command, 80, 0x05⟩
  | .extaudio => ⟨.command, 80, 0x06⟩
  | .postaudio => ⟨.command, 80, 0x07⟩
  | .teardown => ⟨.command, 80, 0x08⟩
  | .rd _ _ => ⟨.command, 80, 0x10⟩
  | .wr _ _ _ => ⟨.command, 80, 0x11⟩
  | .setrd _ _ _ _ => ⟨.command, 80, 0x12⟩
  | .setwr _ _ _ _ => ⟨.command, 80, 0x13⟩
  | .wraprd _ _ _ _ => ⟨.command, 80, 0x14⟩
  | .wrapwr _ _ _ _ => ⟨.command, 80, 0x15⟩
  | .normbank _ _ _ => ⟨.command, 80, 0x20⟩
  | .sanitize => ⟨.command, 80, 0x21⟩
  | .mirroraddr _ _ => ⟨.command, 80, 0x28⟩
  | .applymirror _ => ⟨.command, 80, 0x29⟩
  | .applyctlmirror => ⟨.command, 80, 0x2A⟩
  | .rdOpen _ => ⟨.call, 24, 0x00⟩
  | .rdExternal _ => ⟨.call, 24, 0x01⟩
  | .rdStore _ => ⟨.call, 24, 0x02⟩
  | .rdPrg _ _ _ => ⟨.call, 24, 0x03⟩
  | .rdChr _ _ _ => ⟨.call, 24, 0x04⟩
  | .rdChrA12 _ _ _ => ⟨.call, 24, 0x05⟩
  | .rdChrLatched _ _ _ _ _ => ⟨.call, 24, 0x06⟩
  | .rdNtDyn _ => ⟨.call, 24, 0x07⟩
  | .rdTramp _ _ _ => ⟨.call, 24, 0x08⟩
  | .wrIgnore _ => ⟨.call, 24, 0x80⟩
  | .wrExternal _ => ⟨.call, 24, 0x81⟩
  | .wrStore _ => ⟨.call, 24, 0x82⟩
  | .wrChr _ _ _ => ⟨.call, 24, 0x83⟩
  | .wrChrA12 _ _ _ => ⟨.call, 24, 0x84⟩
  | .wrNtDyn _ => ⟨.call, 24, 0x85⟩
  | .wrDirect _ _ _ _ _ => ⟨.call, 24, 0x86⟩
  | .wrShift _ => ⟨.call, 24, 0x87⟩
  | .wrSelect _ => ⟨.call, 24, 0x88⟩
  | .wrData _ => ⟨.call, 24, 0x89⟩
  | .wrMirror _ _ => ⟨.call, 24, 0x8A⟩
  | .wrM3Latch _ => ⟨.call, 24, 0x8B⟩
  | .wrM3Reload _ => ⟨.call, 24, 0x8C⟩
  | .wrM3Disable _ => ⟨.call, 24, 0x8D⟩
  | .wrM3Enable _ => ⟨.call, 24, 0x8E⟩
  | .wrVrcLatch _ => ⟨.call, 24, 0x90⟩
  | .wrVrcLatchLo _ => ⟨.call, 24, 0x91⟩
  | .wrVrcLatchHi _ => ⟨.call, 24, 0x92⟩
  | .wrVrcCtrl _ => ⟨.call, 24, 0x93⟩
  | .wrVrcAck _ => ⟨.call, 24, 0x94⟩
  | .wrTramp _ _ _ => ⟨.call, 24, 0x95⟩
  | .seLatch _ _ => ⟨.sideEffect, 16, 0x00⟩

/-- The encoded word carries its row's fixed byte. -/
def Statement (i : Instr) : Prop :=
  (encode i).format = (rowOf i).format ∧ (encode i).bits / 2 ^ (rowOf i).lo % 256 = (rowOf i).code

theorem init : Statement .init := ⟨rfl, packCommand_op _⟩

theorem applymap : Statement .applymap := ⟨rfl, packCommand_op _⟩

theorem tick : Statement .tick := ⟨rfl, packCommand_op _⟩

theorem reset : Statement .reset := ⟨rfl, packCommand_op _⟩

theorem savebatt : Statement .savebatt := ⟨rfl, packCommand_op _⟩

theorem extaudio : Statement .extaudio := ⟨rfl, packCommand_op _⟩

theorem postaudio : Statement .postaudio := ⟨rfl, packCommand_op _⟩

theorem teardown : Statement .teardown := ⟨rfl, packCommand_op _⟩

theorem rd (sp : Space) (a : Addr) : Statement (.rd sp a) := ⟨rfl, packCommand_op _⟩

theorem wr (sp : Space) (a : Addr) (v : Byte) : Statement (.wr sp a v) := ⟨rfl, packCommand_op _⟩

theorem setrd (sp : Space) (a : Addr) (hd : Kind) (param : Addr) : Statement (.setrd sp a hd param) := ⟨rfl, packCommand_op _⟩

theorem setwr (sp : Space) (a : Addr) (hd : Kind) (param : Addr) : Statement (.setwr sp a hd param) := ⟨rfl, packCommand_op _⟩

theorem wraprd (sp : Space) (a : Addr) (hd : Kind) (param : Addr) : Statement (.wraprd sp a hd param) := ⟨rfl, packCommand_op _⟩

theorem wrapwr (sp : Space) (a : Addr) (hd : Kind) (param : Addr) : Statement (.wrapwr sp a hd param) := ⟨rfl, packCommand_op _⟩

theorem normbank (idx : BitVec 16) (memsize : BitVec 32) (banksize : BitVec 16) : Statement (.normbank idx memsize banksize) := ⟨rfl, packCommand_op _⟩

theorem sanitize : Statement .sanitize := ⟨rfl, packCommand_op _⟩

theorem mirroraddr (a : Addr) (mode : MirrorMode) : Statement (.mirroraddr a mode) := ⟨rfl, packCommand_op _⟩

theorem applymirror (mode : MirrorMode) : Statement (.applymirror mode) := ⟨rfl, packCommand_op _⟩

theorem applyctlmirror : Statement .applyctlmirror := ⟨rfl, packCommand_op _⟩

theorem rdOpen (c : ReadCall) : Statement (.rdOpen c) := ⟨rfl, packCall_kind _ _ _ _ _ _ _ _⟩

theorem rdExternal (c : ReadCall) : Statement (.rdExternal c) := ⟨rfl, packCall_kind _ _ _ _ _ _ _ _⟩

theorem rdStore (c : ReadCall) : Statement (.rdStore c) := ⟨rfl, packCall_kind _ _ _ _ _ _ _ _⟩

theorem rdPrg (c : ReadCall) (slot : Slot) (log2 : Byte) : Statement (.rdPrg c slot log2) := ⟨rfl, packCall_kind _ _ _ _ _ _ _ _⟩

theorem rdChr (c : ReadCall) (slot : Slot) (log2 : Byte) : Statement (.rdChr c slot log2) := ⟨rfl, packCall_kind _ _ _ _ _ _ _ _⟩

theorem rdChrA12 (c : ReadCall) (slot : Slot) (log2 : Byte) : Statement (.rdChrA12 c slot log2) := ⟨rfl, packCall_kind _ _ _ _ _ _ _ _⟩

theorem rdChrLatched (c : ReadCall) (window : Bool) (slotA : Slot) (log2 : Byte) (slotB : Slot) : Statement (.rdChrLatched c window slotA log2 slotB) := ⟨rfl, packCall_kind _ _ _ _ _ _ _ _⟩

theorem rdNtDyn (c : ReadCall) : Statement (.rdNtDyn c) := ⟨rfl, packCall_kind _ _ _ _ _ _ _ _⟩

theorem rdTramp (c : ReadCall) (k : Nat) (se : SideEffect) : Statement (.rdTramp c k se) := by
  cases se
  exact ⟨rfl, packCall_kind _ _ _ _ _ _ _ _⟩

theorem wrIgnore (c : WriteCall) : Statement (.wrIgnore c) := ⟨rfl, packCall_kind _ _ _ _ _ _ _ _⟩

theorem wrExternal (c : WriteCall) : Statement (.wrExternal c) := ⟨rfl, packCall_kind _ _ _ _ _ _ _ _⟩

theorem wrStore (c : WriteCall) : Statement (.wrStore c) := ⟨rfl, packCall_kind _ _ _ _ _ _ _ _⟩

theorem wrChr (c : WriteCall) (slot : Slot) (log2 : Byte) : Statement (.wrChr c slot log2) := ⟨rfl, packCall_kind _ _ _ _ _ _ _ _⟩

theorem wrChrA12 (c : WriteCall) (slot : Slot) (log2 : Byte) : Statement (.wrChrA12 c slot log2) := ⟨rfl, packCall_kind _ _ _ _ _ _ _ _⟩

theorem wrNtDyn (c : WriteCall) : Statement (.wrNtDyn c) := ⟨rfl, packCall_kind _ _ _ _ _ _ _ _⟩

theorem wrDirect (c : WriteCall) (toChr : Bool) (slot : Slot) (log2 : Byte) (mask : Byte) : Statement (.wrDirect c toChr slot log2 mask) := ⟨rfl, packCall_kind _ _ _ _ _ _ _ _⟩

theorem wrShift (c : WriteCall) : Statement (.wrShift c) := ⟨rfl, packCall_kind _ _ _ _ _ _ _ _⟩

theorem wrSelect (c : WriteCall) : Statement (.wrSelect c) := ⟨rfl, packCall_kind _ _ _ _ _ _ _ _⟩

theorem wrData (c : WriteCall) : Statement (.wrData c) := ⟨rfl, packCall_kind _ _ _ _ _ _ _ _⟩

theorem wrMirror (c : WriteCall) (style : Byte) : Statement (.wrMirror c style) := ⟨rfl, packCall_kind _ _ _ _ _ _ _ _⟩

theorem wrM3Latch (c : WriteCall) : Statement (.wrM3Latch c) := ⟨rfl, packCall_kind _ _ _ _ _ _ _ _⟩

theorem wrM3Reload (c : WriteCall) : Statement (.wrM3Reload c) := ⟨rfl, packCall_kind _ _ _ _ _ _ _ _⟩

theorem wrM3Disable (c : WriteCall) : Statement (.wrM3Disable c) := ⟨rfl, packCall_kind _ _ _ _ _ _ _ _⟩

theorem wrM3Enable (c : WriteCall) : Statement (.wrM3Enable c) := ⟨rfl, packCall_kind _ _ _ _ _ _ _ _⟩

theorem wrVrcLatch (c : WriteCall) : Statement (.wrVrcLatch c) := ⟨rfl, packCall_kind _ _ _ _ _ _ _ _⟩

theorem wrVrcLatchLo (c : WriteCall) : Statement (.wrVrcLatchLo c) := ⟨rfl, packCall_kind _ _ _ _ _ _ _ _⟩

theorem wrVrcLatchHi (c : WriteCall) : Statement (.wrVrcLatchHi c) := ⟨rfl, packCall_kind _ _ _ _ _ _ _ _⟩

theorem wrVrcCtrl (c : WriteCall) : Statement (.wrVrcCtrl c) := ⟨rfl, packCall_kind _ _ _ _ _ _ _ _⟩

theorem wrVrcAck (c : WriteCall) : Statement (.wrVrcAck c) := ⟨rfl, packCall_kind _ _ _ _ _ _ _ _⟩

theorem wrTramp (c : WriteCall) (k : Nat) (se : SideEffect) : Statement (.wrTramp c k se) := by
  cases se
  exact ⟨rfl, packCall_kind _ _ _ _ _ _ _ _⟩

theorem seLatch (window : Byte) (state : Byte) : Statement (.seLatch window state) := by
  refine ⟨rfl, ?_⟩
  have h1 := window.isLt
  have h2 := state.isLt
  simp only [encode, rowOf, BitVec.toNat_append, BitVec.toNat_ofNat]
  have h3 : window.toNat <<< 8 ||| state.toNat = window.toNat * 256 + state.toNat := by
    rw [← Nat.shiftLeft_add_eq_or_of_lt h2, Nat.shiftLeft_eq]
  rw [h3]
  simp
  omega

end Sys2Proof.Laws.EncodesToRow
end

