-- ==== Sys2Proof/Laws/Trampoline.lean ====
section
/-! SUPPORT. Trampolines (spec/44_trampoline.md): a sound reference stays sound as records are appended, a wrap
keeps the chain sound, and a dispatch through a trampoline is its side effect and then the dispatch it forwards
to. -/

open Sys2Proof Sys2Proof.Machine

namespace Sys2Proof.Laws

theorem runWrite_last (fn : WriteKind) (sp : Space) (p : Addr) (v : Byte) (s : State) (sp' : Space) :
    ((runWrite fn sp p v s).bus sp').last = (s.bus sp').last ∧ (runWrite fn sp p v s).resp = s.resp := by
  obtain ⟨st, pb, cb, m, irq, line, calls, fam, ram, h⟩ := runWrite_changes fn sp p v s
  rw [h]
  refine ⟨?_, ?_⟩
  · cases sp <;> cases sp' <;> rfl
  · cases sp <;> rfl

theorem tramp_rd_ok {s : State} {k h o} (hk : s.tramp[k]? = some ⟨.rd h, o⟩) (se p) :
    readRefOk s.tramp s.tramp.length ⟨.tramp se, .tramp k, p⟩ :=
  ⟨fun h => Bool.noConfusion h, fun _ => ⟨k, h, o, rfl, (List.getElem?_eq_some_iff.mp hk).1, hk⟩⟩

theorem tramp_wr_ok {s : State} {k h o} (hk : s.tramp[k]? = some ⟨.wr h, o⟩) (se p) :
    writeRefOk s.tramp s.tramp.length ⟨.tramp se, .tramp k, p⟩ :=
  ⟨fun h => Bool.noConfusion h, fun _ => ⟨k, h, o, rfl, (List.getElem?_eq_some_iff.mp hk).1, hk⟩⟩

theorem readRefOk_mono {recs : List TrampRecord} {n m : Nat} {h : ReadRef} (hnm : n ≤ m) (hh : readRefOk recs n h) : readRefOk recs m h :=
  ⟨hh.1, fun ht => by obtain ⟨k, p, o, h1, h2, h3⟩ := hh.2 ht; exact ⟨k, p, o, h1, by omega, h3⟩⟩

theorem writeRefOk_mono {recs : List TrampRecord} {n m : Nat} {h : WriteRef} (hnm : n ≤ m) (hh : writeRefOk recs n h) : writeRefOk recs m h :=
  ⟨hh.1, fun ht => by obtain ⟨k, p, o, h1, h2, h3⟩ := hh.2 ht; exact ⟨k, p, o, h1, by omega, h3⟩⟩

theorem runSideEffect_tramp (s : State) (se) : (s.runSideEffect se).tramp = s.tramp := by rw [runSideEffect_eq]; simp

theorem dispatchRead_tramp {s : State} (hs : s.trampsOk) {k h o} (hk : s.tramp[k]? = some ⟨.rd h, o⟩) (se p sp) :
    dispatchRead ⟨.tramp se, .tramp k, p⟩ sp s = dispatchRead h sp (s.runSideEffect se) := by
  have hlt := (List.getElem?_eq_some_iff.mp hk).1
  obtain ⟨r, _, hr⟩ := resolveRead_total hs.2 k h (hs.2 k _ hk)
  obtain ⟨f, hf⟩ : ∃ f, s.tramp.length = f + 1 := ⟨s.tramp.length - 1, by omega⟩
  unfold dispatchRead
  rw [runSideEffect_tramp, hf, resolveRead_tramp hk, hr f (by omega), hr (f+1) (by omega)]
  rfl

theorem dispatchWrite_tramp {s : State} (hs : s.trampsOk) {k h o} (hk : s.tramp[k]? = some ⟨.wr h, o⟩) (se p sp v) :
    dispatchWrite ⟨.tramp se, .tramp k, p⟩ sp v s = dispatchWrite h sp v (s.runSideEffect se) := by
  have hlt := (List.getElem?_eq_some_iff.mp hk).1
  obtain ⟨r, _, hr⟩ := resolveWrite_total hs.2 k h (hs.2 k _ hk)
  obtain ⟨f, hf⟩ : ∃ f, s.tramp.length = f + 1 := ⟨s.tramp.length - 1, by omega⟩
  unfold dispatchWrite
  rw [runSideEffect_tramp, hf, resolveWrite_tramp hk, hr f (by omega), hr (f+1) (by omega)]
  simp [State.writeThrough, State.runSideEffects, runSideEffect_setLast]

theorem wrapRead_tramp (s : State) (sp x se p) : (s.wrapRead sp x se p).tramp = s.tramp ++ [⟨.rd (s.readEntry sp x), .mapper⟩] := by
  simp [State.wrapRead]

theorem readRefOk_append {recs : List TrampRecord} {n : Nat} {h : ReadRef} (l) (hh : readRefOk recs n h) : readRefOk (recs ++ l) n h :=
  ⟨hh.1, fun ht => by
    obtain ⟨k, p, o, h1, h2, h3⟩ := hh.2 ht
    exact ⟨k, p, o, h1, h2, by rw [List.getElem?_append_left (List.getElem?_eq_some_iff.mp h3).1]; exact h3⟩⟩

theorem writeRefOk_append {recs : List TrampRecord} {n : Nat} {h : WriteRef} (l) (hh : writeRefOk recs n h) : writeRefOk (recs ++ l) n h :=
  ⟨hh.1, fun ht => by
    obtain ⟨k, p, o, h1, h2, h3⟩ := hh.2 ht
    exact ⟨k, p, o, h1, h2, by rw [List.getElem?_append_left (List.getElem?_eq_some_iff.mp h3).1]; exact h3⟩⟩

theorem prevRefOk_append {recs : List TrampRecord} {n : Nat} {h : PrevRef} (l) (hh : prevRefOk recs n h) : prevRefOk (recs ++ l) n h := by
  cases h with
  | rd h => exact readRefOk_append l hh
  | wr h => exact writeRefOk_append l hh

theorem mem_tablePut {κ : Type} [DecidableEq κ] {d : HandlerRef κ} {t : Table κ} {a : Nat} {h : HandlerRef κ} {e}
    (he : e ∈ tablePut d t a h) : e ∈ t ∨ e = (a, h) := by
  unfold tablePut at he
  split at he
  · exact Or.inl (List.mem_of_mem_filter he)
  · exact (mem_assocInsert he).symm

/-- records OK after append -/

theorem records_append {recs : List TrampRecord} (hr : ∀ k r, recs[k]? = some r → prevRefOk recs k r.prev)
    (p : PrevRef) (o : Ctx) (hp : prevRefOk recs recs.length p) :
    ∀ k r, (recs ++ [⟨p, o⟩])[k]? = some r → prevRefOk (recs ++ [⟨p, o⟩]) k r.prev := by
  intro k r hk
  by_cases hlt : k < recs.length
  · rw [List.getElem?_append_left hlt] at hk
    exact prevRefOk_append _ (hr k r hk)
  · have hk' := (List.getElem?_eq_some_iff.mp hk).1
    simp at hk'
    obtain rfl : k = recs.length := by omega
    rw [List.getElem?_append_right (Nat.le_refl _)] at hk
    simp at hk
    subst hk
    exact prevRefOk_append _ hp

theorem wrapRead_trampsOk {s : State} (hs : s.trampsOk) (sp x se p) : (s.wrapRead sp x se p).trampsOk := by
  have ht := wrapRead_tramp s sp x se p
  refine ⟨fun sp' => ⟨fun e he => ?_, fun e he => ?_⟩, ?_⟩
  · rw [ht]
    unfold State.wrapRead at he
    rw [putReadEntry_bus] at he
    have old : ∀ e ∈ (s.bus sp').rd, readRefOk (s.tramp ++ ([⟨.rd (s.readEntry sp x), .mapper⟩] : List TrampRecord)) (s.tramp ++ ([⟨.rd (s.readEntry sp x), .mapper⟩] : List TrampRecord)).length e.2 :=
      fun e he => readRefOk_append _ (readRefOk_mono (by simp) ((hs.1 sp').1 e he))
    split at he
    · next h =>
      subst h
      simp only [addRecord_bus] at he
      rcases mem_tablePut he with he | he
      · exact old e (by simpa using he)
      · rw [he]
        exact ⟨fun h => Bool.noConfusion h, fun _ => ⟨s.tramp.length, s.readEntry sp' x, .mapper, rfl, by simp, by simp⟩⟩
    · exact old e (by simpa using he)
  · rw [ht]
    unfold State.wrapRead at he
    rw [putReadEntry_wr] at he
    exact writeRefOk_append _ (writeRefOk_mono (by simp) ((hs.1 sp').2 e (by simpa using he)))
  · rw [ht]
    exact records_append hs.2 _ _ (readEntry_ok hs sp x)

theorem readEntry_wrapRead (s : State) (sp a se p sp' b) : (s.wrapRead sp a se p).readEntry sp' b =
   if sp' = sp ∧ entryIndex sp b = entryIndex sp a then ⟨.tramp se, .tramp s.tramp.length, p⟩ else s.readEntry sp' b := by
  unfold State.wrapRead; rw [readEntry_putReadEntry]; rfl

/-- What one trampoline row does (R302 step 7): a record of the read entry of each of its `n` addresses, in rising order,
and over each entry the trampoline of its record; every other entry stays. -/
theorem wrapRow_spec (sp : Space) (se : SideEffect) (lo n : Nat) (hsz : lo + n ≤ spaceSize sp) (s : State) :
    let t := (List.range' lo n).foldl (fun s a => s.wrapRead sp (BitVec.ofNat 16 a) se (BitVec.ofNat 16 a)) s
    t.tramp = s.tramp ++ (List.range' lo n).map (fun a => ⟨.rd (s.readEntry sp (BitVec.ofNat 16 a)), .mapper⟩)
    ∧ (∀ sp' (b : Addr), t.readEntry sp' b
        = if sp' = sp ∧ lo ≤ entryIndex sp b ∧ entryIndex sp b < lo + n then
            ⟨.tramp se, .tramp (s.tramp.length + (entryIndex sp b - lo)), BitVec.ofNat 16 (entryIndex sp b)⟩
          else s.readEntry sp' b)
    ∧ ∀ sp' (b : Addr), t.writeEntry sp' b = s.writeEntry sp' b := by
  induction n generalizing lo s with
  | zero => 
    refine ⟨by simp, fun sp' b => ?_, fun _ _ => rfl⟩
    rw [if_neg (by omega)]; rfl
  | succ n ih =>
    rw [List.range'_succ]
    simp only [List.foldl_cons, List.map_cons]
    obtain ⟨h1, h2, h3⟩ := ih (lo + 1) (by omega) (s.wrapRead sp (BitVec.ofNat 16 lo) se (BitVec.ofNat 16 lo))
    generalize List.foldl _ _ _ = t at *
    have hlo : entryIndex sp (BitVec.ofNat 16 lo) = lo := entryIndex_ofNat _ _ (by omega)
    have hT := wrapRead_tramp s sp (BitVec.ofNat 16 lo) se (BitVec.ofNat 16 lo)
    refine ⟨?_, ?_, ?_⟩
    · rw [h1, hT, List.append_assoc]
      rw [List.singleton_append]
      congr 2
      apply List.map_congr_left
      intro a ha
      simp only [List.mem_range'_1] at ha
      rw [readEntry_wrapRead, if_neg]
      rw [hlo, entryIndex_ofNat _ _ (by omega)]; omega
    · intro sp' b
      rw [h2, hT, readEntry_wrapRead, hlo]
      by_cases hs : sp' = sp
      · subst hs
        by_cases hb : entryIndex sp' b = lo
        · rw [if_neg (by omega), if_pos ⟨rfl, hb⟩, if_pos ⟨rfl, by omega, by omega⟩, hb]; simp
        · by_cases hc : lo ≤ entryIndex sp' b ∧ entryIndex sp' b < lo + (n + 1)
          · rw [if_pos ⟨rfl, by omega, by omega⟩, if_pos ⟨rfl, hc⟩]
            simp only [List.length_append, List.length_singleton]
            congr 2; omega
          · rw [if_neg (by omega), if_neg (by omega), if_neg (by omega)]
      · simp [hs]
    · intro sp' b; rw [h3]; unfold State.wrapRead; rw [writeEntry_putReadEntry]; rfl

theorem runSideEffect_trampsOk {s : State} (hs : s.trampsOk) (se) : (s.runSideEffect se).trampsOk := by
  rw [runSideEffect_eq]; exact hs

/-! ### An access as a dispatch, and what a dispatch can change -/

/-- A read kind as an instruction is a dispatch to a reference with that kind (R124). -/
theorem exec_readParts {i : Instr} {c : ReadCall} {k : Nat} {fn : ReadKind} (h : readPartsOf i = some (c, k, fn))
    (s : State) : exec i s = dispatchRead ⟨fn, .tramp k, c.param⟩ c.sp s := by
  cases i <;> cases h <;> first | rfl | (unfold dispatchRead; rw [resolveRead_plain _ _ _ rfl]; rfl)

/-- A write kind as an instruction is a dispatch to a reference with that kind (R125). -/
theorem exec_writeParts {i : Instr} {c : WriteCall} {k : Nat} {fn : WriteKind}
    (h : writePartsOf i = some (c, k, fn)) (s : State) :
    exec i s = dispatchWrite ⟨fn, .tramp k, c.param⟩ c.sp c.v s := by
  cases i <;> cases h <;> first | rfl | (unfold dispatchWrite; rw [resolveWrite_plain _ _ _ rfl]; rfl)

/-- A read transaction changes the counter, the line, the sink's calls, the draws, the family state, the last bus
value and the response at most (R64). -/
theorem dispatchRead_changes {h : ReadRef} {sp : Space} {s t : State} (hd : dispatchRead h sp s = .next t) :
    ∃ irq line calls draws fam v, t
      = ({ s with irq := irq, irqOut := line, calls := calls, draws := draws, family := fam }.setLast sp v).respond
          (.byte v) := by
  unfold dispatchRead at hd
  split at hd
  · next ses fn param _ =>
    obtain ⟨fam, hf⟩ : ∃ fam, s.runSideEffects ses = s.setFamily fam := ⟨_, runSideEffects_eq s ses⟩
    rw [hf] at hd
    cases hd
    obtain ⟨irq, line, calls, draws, h⟩ := runRead_changes fn sp param ((s.setFamily fam).bus sp).last (s.setFamily fam)
    refine ⟨irq, line, calls, draws, fam,
      (runRead fn sp param ((s.setFamily fam).bus sp).last (s.setFamily fam)).2, ?_⟩
    simp only [State.readThrough]
    rw [h]
    rfl
  · cases hd

/-- A write transaction changes the store and the last bus value of its bus, CHR-RAM, the bank registers, the
mirror mode, the counter, the line, the sink's calls and the family state at most (R64). -/
theorem dispatchWrite_changes {h : WriteRef} {sp : Space} {v : Byte} {s t : State}
    (hd : dispatchWrite h sp v s = .next t) :
    ∃ st pb cb m irq line calls fam ram, t
      = { s.setBus sp { s.bus sp with store := st, last := v } with
          prgBank := pb, chrBank := cb, mirrorMode := m, irq := irq, irqOut := line, calls := calls
          family := fam, chrRam := ram } := by
  unfold dispatchWrite at hd
  split at hd
  · next ses fn param _ =>
    cases hd
    obtain ⟨st, pb, cb, m, irq, line, calls, fam, ram, h⟩ :=
      runWrite_changes fn sp param v ((s.setLast sp v).runSideEffects ses)
    refine ⟨st, pb, cb, m, irq, line, calls, fam, ram, ?_⟩
    simp only [State.writeThrough]
    rw [h, runSideEffects_eq]
    cases sp <;> rfl
  · cases hd

end Sys2Proof.Laws
end

