-- ==== Sys2Proof/Tests/Slice0.lean ====
section
/-! SUPPORT. Tests: ill-formed terms, words of spec/95_test_vectors.md and spec/30_encoding.md written out by
hand, one or two single steps per instruction with the results the spec works out, and for every obligation with
hypotheses a state and operands that meet them (`witness_<obligation>`). -/

namespace Sys2Proof.Tests

open Sys2Proof.Machine

/-! ### States and readings -/

/-- Three 16 KB PRG banks holding 0x23, 0x63, 0xA3; no CHR ROM; Vertical. -/
def rom48 : Rom := ⟨[(16384, 0x23), (16384, 0x63), (16384, 0xA3)], [], .vertical, 0, 0⟩

/-- One 128 KB run of PRG, eight 4 KB CHR banks holding their number; Horizontal. -/
def romChr : Rom :=
  ⟨[(131072, 0x77)],
    [(4096, 0), (4096, 1), (4096, 2), (4096, 3), (4096, 4), (4096, 5), (4096, 6), (4096, 7)], .horizontal, 0, 0⟩

/-- A four-screen ROM. -/
def romFour : Rom := ⟨[(32768, 0)], [], .fourScreen, 0, 0⟩

/-- A live instance with empty tables, last bus values 0xC0 and 0xD0. -/
def inst (v : Variant) (rom : Rom) : State :=
  { State.powerOn ⟨v, .none, true, Config.vrcBits, 8⟩ with
    rom := rom, wires := ⟨rom, 100, ⟨7⟩, 44100⟩, phase := .mapped
    cpu := ⟨[], [], [], 0xC0⟩, ppu := ⟨[], [], [], 0xD0⟩ }

/-- The same at phase `EMPTY`. -/
def fresh : State := { inst vNrom romUnbound with phase := .empty, wires := wiresPowerOn }

/-- A field of the next state. -/
def field {α : Type} (f : State → α) : Result → Option α
  | .next s => some (f s)
  | .fault _ => none
  | .refused _ => none

/-- The refusal. -/
def refusalOf : Result → Option Refusal
  | .next _ => none
  | .fault _ => none
  | .refused r => some r

/-- The response of a command. -/
def respOf (r : Result) : Option Response := (field (fun s => s.resp) r).join

/-- The byte a read answered in `resp[7:0]`. -/
def byteOf (r : Result) : Option Byte :=
  match respOf r with
  | some (.value w) => some (w.extractLsb' 0 8)
  | _ => none

/-- The bits of `resp` above the byte are free, so no test reads them: a test of a byte shows the byte `u` the command
answers with, and that it is `v`. -/
theorem byteOf_of {r : Result} {free : BitVec 16} {u v : Byte}
    (h : respOf r = some (responseOf free (.byte u))) (hv : u = v) : byteOf r = some v := by
  obtain ⟨w, hw, h8⟩ := Laws.responseOf_byte free u
  subst hv
  simp [byteOf, h, hw, h8]

def withIrq (r : IrqState) (s : State) : State := { s with irq := r }

def withFamily (r : FamilyState) (s : State) : State := { s with family := r }

/-- The state with one command at its port. -/
def issued (w : BitVec 88) (s : State) : State := { s with port := [⟨w, s.wires⟩] }

def refused (r : Refusal) : Result := .refused r

def readBack (i : Except Invalid Instr) : Option Instr := i.toOption

/-! ### Well-formedness: an ill-formed term for each check -/

theorem test_wf_setrd : (Instr.setrd .cpu 0 (.write .store) 0).wellFormed = false
    ∧ (Instr.setrd .cpu 0 (.read (.tramp (.latch 0 1))) 0).wellFormed = false
    ∧ (Instr.setrd .cpu 0 (.read (.prg 0 9)) 0).wellFormed = false := by decide

theorem test_wf_setwr : (Instr.setwr .cpu 0 (.read .store) 0).wellFormed = false
    ∧ (Instr.setwr .cpu 0 (.write (.tramp (.latch 0 1))) 0).wellFormed = false
    ∧ (Instr.setwr .cpu 0 (.write (.mirror 1)) 0).wellFormed = false := by decide

theorem test_wf_wraprd : (Instr.wraprd .ppu 0 (.read .store) 0).wellFormed = false
    ∧ (Instr.wraprd .ppu 0 (.read (.tramp (.latch 2 1))) 0).wellFormed = false
    ∧ (Instr.wraprd .ppu 0 (.write (.tramp (.latch 0 1))) 0).wellFormed = false := by decide

theorem test_wf_wrapwr : (Instr.wrapwr .ppu 0 (.write .store) 0).wellFormed = false
    ∧ (Instr.wrapwr .ppu 0 (.write (.tramp (.latch 0 3))) 0).wellFormed = false
    ∧ (Instr.wrapwr .ppu 0 (.read (.tramp (.latch 0 1))) 0).wellFormed = false := by decide

theorem test_wf_sizes : (Instr.rdPrg ⟨.cpu, 0⟩ 0 9).wellFormed = false
    ∧ (Instr.rdChr ⟨.ppu, 0⟩ 0 16).wellFormed = false
    ∧ (Instr.rdChrA12 ⟨.ppu, 0⟩ 0 0).wellFormed = false
    ∧ (Instr.rdChrLatched ⟨.ppu, 0⟩ true 0 255 1).wellFormed = false
    ∧ (Instr.wrChr ⟨.ppu, 0, 0⟩ 0 9).wellFormed = false
    ∧ (Instr.wrChrA12 ⟨.ppu, 0, 0⟩ 0 16).wellFormed = false
    ∧ (Instr.wrDirect ⟨.cpu, 0, 0⟩ true 0 8 7).wellFormed = false := by decide

theorem test_wf_fields : (Instr.wrMirror ⟨.cpu, 0, 0⟩ 1).wellFormed = false
    ∧ (Instr.rdTramp ⟨.ppu, 0⟩ 0 (.latch 2 1)).wellFormed = false
    ∧ (Instr.wrTramp ⟨.ppu, 0, 0⟩ 0 (.latch 0 0)).wellFormed = false
    ∧ (Instr.seLatch 0 3).wellFormed = false ∧ (Instr.seLatch 2 1).wellFormed = false := by decide

/-! ### Decoding: every constructor, from words written out from R90 to R94, R101 and R104 -/

theorem test_decode_lifecycle :
    readBack (decodeCommand 0x0100000000000000000000) = some .init
    ∧ readBack (decodeCommand 0x0200000000000000000000) = some .applymap
    ∧ readBack (decodeCommand 0x0300000000000000000000) = some .tick
    ∧ readBack (decodeCommand 0x0400000000000000000000) = some .reset
    ∧ readBack (decodeCommand 0x0500000000000000000000) = some .savebatt
    ∧ readBack (decodeCommand 0x0600000000000000000000) = some .extaudio
    ∧ readBack (decodeCommand 0x0700000000000000000000) = some .postaudio
    ∧ readBack (decodeCommand 0x0800000000000000000000) = some .teardown := by decide

theorem test_decode_bus :
    readBack (decodeCommand 0x1001C01000000000000000) = some (.rd .ppu 0xC010)
    ∧ readBack (decodeCommand 0x1100123400004000000000) = some (.wr .cpu 0x1234 0x40)
    ∧ readBack (decodeCommand 0x1200000500050002000000) = some (.setrd .cpu 5 (.read .store) 5)
    ∧ readBack (decodeCommand 0x1300000500050082000000) = some (.setwr .cpu 5 (.write .store) 5)
    ∧ readBack (decodeCommand 0x14010FD80FD80008000102)
      = some (.wraprd .ppu 0x0FD8 (.read (.tramp (.latch 1 2))) 0x0FD8)
    ∧ readBack (decodeCommand 0x1501A000B0000095000001)
      = some (.wrapwr .ppu 0xA000 (.write (.tramp (.latch 0 1))) 0xB000) := by decide

theorem test_decode_pure :
    readBack (decodeCommand 0x2000040001000000100000) = some (.normbank 0x0100 0x00100000 0x0400)
    ∧ readBack (decodeCommand 0x2100000000000000000000) = some .sanitize
    ∧ readBack (decodeCommand 0x28002C0500000200000000) = some (.mirroraddr 0x2C05 .oneScreenA)
    ∧ readBack (decodeCommand 0x2900000000000100000000) = some (.applymirror .vertical)
    ∧ readBack (decodeCommand 0x2A00000000000000000000) = some .applyctlmirror := by decide

theorem test_decode_read_kinds :
    decodeTableWord 32 0x00000000 = some (.rdOpen ⟨.cpu, 0⟩)
    ∧ decodeTableWord 32 0x01000000 = some (.rdExternal ⟨.cpu, 0⟩)
    ∧ decodeTableWord 32 0x02000000 = some (.rdStore ⟨.cpu, 0⟩)
    ∧ decodeTableWord 32 0x03010E00 = some (.rdPrg ⟨.cpu, 0⟩ 1 14)
    ∧ decodeTableWord 32 0x04020A00 = some (.rdChr ⟨.cpu, 0⟩ 2 10)
    ∧ decodeTableWord 32 0x051F0F00 = some (.rdChrA12 ⟨.cpu, 0⟩ 31 15)
    ∧ decodeTableWord 32 0x06820C03 = some (.rdChrLatched ⟨.cpu, 0⟩ true 2 12 3)
    ∧ decodeTableWord 32 0x07000000 = some (.rdNtDyn ⟨.cpu, 0⟩)
    ∧ decodeTableWord 32 0x08000102 = some (.rdTramp ⟨.cpu, 0⟩ 0 (.latch 1 2)) := by decide

theorem test_decode_write_kinds :
    decodeTableWord 32 0x80000000 = some (.wrIgnore ⟨.cpu, 0, 0⟩)
    ∧ decodeTableWord 32 0x81000000 = some (.wrExternal ⟨.cpu, 0, 0⟩)
    ∧ decodeTableWord 32 0x82000000 = some (.wrStore ⟨.cpu, 0, 0⟩)
    ∧ decodeTableWord 32 0x83030D00 = some (.wrChr ⟨.cpu, 0, 0⟩ 3 13)
    ∧ decodeTableWord 32 0x84040C00 = some (.wrChrA12 ⟨.cpu, 0, 0⟩ 4 12)
    ∧ decodeTableWord 32 0x85000000 = some (.wrNtDyn ⟨.cpu, 0, 0⟩)
    ∧ decodeTableWord 32 0x86800D03 = some (.wrDirect ⟨.cpu, 0, 0⟩ true 0 13 3)
    ∧ decodeTableWord 32 0x87000000 = some (.wrShift ⟨.cpu, 0, 0⟩)
    ∧ decodeTableWord 32 0x88000000 = some (.wrSelect ⟨.cpu, 0, 0⟩)
    ∧ decodeTableWord 32 0x89000000 = some (.wrData ⟨.cpu, 0, 0⟩)
    ∧ decodeTableWord 32 0x8A000000 = some (.wrMirror ⟨.cpu, 0, 0⟩ 0) := by decide

theorem test_decode_counter_kinds :
    decodeTableWord 32 0x8B000000 = some (.wrM3Latch ⟨.cpu, 0, 0⟩)
    ∧ decodeTableWord 32 0x8C000000 = some (.wrM3Reload ⟨.cpu, 0, 0⟩)
    ∧ decodeTableWord 32 0x8D000000 = some (.wrM3Disable ⟨.cpu, 0, 0⟩)
    ∧ decodeTableWord 32 0x8E000000 = some (.wrM3Enable ⟨.cpu, 0, 0⟩)
    ∧ decodeTableWord 32 0x8F000000 = none
    ∧ decodeTableWord 32 0x90000000 = some (.wrVrcLatch ⟨.cpu, 0, 0⟩)
    ∧ decodeTableWord 32 0x91000000 = some (.wrVrcLatchLo ⟨.cpu, 0, 0⟩)
    ∧ decodeTableWord 32 0x92000000 = some (.wrVrcLatchHi ⟨.cpu, 0, 0⟩)
    ∧ decodeTableWord 32 0x93000000 = some (.wrVrcCtrl ⟨.cpu, 0, 0⟩)
    ∧ decodeTableWord 32 0x94000000 = some (.wrVrcAck ⟨.cpu, 0, 0⟩)
    ∧ decodeTableWord 32 0x95000001 = some (.wrTramp ⟨.cpu, 0, 0⟩ 0 (.latch 0 1))
    ∧ decodeTableWord 32 0x96000000 = none := by decide

/-- Side-effect words (R104) and address classes (R101; `$9FFE` and `$9FFF` are of class `$8000` and `$8001`). -/
theorem test_decode_other_formats :
    decodeTableWord 24 0x000102 = some (.seLatch 1 2)
    ∧ decodeTableWord 24 0x010102 = none
    ∧ decodeTableWord 16 0x9FFE = some (.wrSelect ⟨.cpu, 0x9FFE, 0⟩)
    ∧ decodeTableWord 16 0x9FFF = some (.wrData ⟨.cpu, 0x9FFF, 0⟩)
    ∧ decodeTableWord 16 0xA000 = some (.wrMirror ⟨.cpu, 0xA000, 0⟩ 0)
    ∧ decodeTableWord 16 0xC001 = some (.wrM3Reload ⟨.cpu, 0xC001, 0⟩)
    ∧ decodeTableWord 16 0x6000 = none := by decide

/-- Invalid words B8, X20, a reserved operation, and an unknown side-effect kind. -/
theorem test_decode_rejects :
    decodeCommand 0x1002000000000000000000 = .error .badSpace
    ∧ decodeCommand 0x2800200000000500000000 = .error .badMirrorMode
    ∧ decodeCommand 0x0900000000000000000000 = .error .unknownOp
    ∧ decodeCommand 0x1401000000000008010001 = .error .badSideEffect
    ∧ decodeCommand 0x1200000000000009000000 = .error .unknownKind := by
  refine ⟨rfl, rfl, rfl, rfl, rfl⟩

/-! ### The step and the port -/

/-- B7 and T6 through `step`: refused as ill formed. -/
theorem test_step_ill_formed :
    refusalOf (step (issued 0x1200800000000082000000 fresh)) = some .illFormed
    ∧ refusalOf (step (issued 0x1401000000000008000201 fresh)) = some .illFormed := by decide

/-- B2 through `step`: the write sets the last bus value and leaves the port. -/
theorem test_step_write :
    field (fun s => s.cpu.last) (step (issued 0x1100123400004000000000 fresh)) = some 0x40
    ∧ field (fun s => s.port) (step (issued 0x1100123400004000000000 fresh)) = some [] := by decide

/-- A word placed by `withFetchWord` is the next step's instruction (F9's write, as a descriptor). -/
theorem test_step_fetch_word :
    field (fun s => (s.writeEntry .cpu 0, s.cpu.last)) (step (fresh.withFetchWord 32 0x86850DFF))
      = some (⟨.direct true 5 13 0xFF, .mapper, 0⟩, 0)
    ∧ byteOf (step (fresh.withFetchWord 88 0x1000123400000000000000)) = some 0xC0 :=
  ⟨by decide, byteOf_of rfl (by decide)⟩

/-! ### Bus transactions -/

/-- B1. -/
theorem test_rd : byteOf (exec (.rd .cpu 0x1234) fresh) = some 0xC0 := byteOf_of rfl (by decide)

/-- B9: the PPU entry of `$C010` is that of `$0010`. -/
theorem test_rd_ppu_fold :
    byteOf (exec (.rd .ppu 0xC010) { fresh with ppu := ⟨[(0x10, ⟨.store, .none, 5⟩)], [], [(5, 0x7E)], 0⟩ })
      = some 0x7E := byteOf_of rfl (by decide)

theorem test_wr : field (fun s => s.cpu.last) (exec (.wr .cpu 0x1234 0x40) fresh) = some 0x40 := by decide

/-- B3: the write half of the entry decides. -/
theorem test_wr_store :
    field (fun s => s.storeByte .cpu 5)
      (exec (.wr .cpu 0x0805 0x7E) { fresh with cpu := ⟨[], [(0x0805, ⟨.store, .none, 5⟩)], [], 0⟩ })
      = some 0x7E := by decide

/-- B3. -/
theorem test_setrd :
    field (fun s => s.readEntry .cpu 5) (exec (.setrd .cpu 5 (.read .store) 5) fresh)
      = some ⟨.store, .none, 5⟩ := by decide

/-- B6: a mapper kind in phase `EMPTY`. -/
theorem test_setrd_phase :
    refusalOf (exec (.setrd .cpu 0x8000 (.read (.prg 0 14)) 0x8000) fresh) = some (.wrongPhase .empty) := by decide

theorem test_setwr :
    field (fun s => (s.writeEntry .cpu 0xA000, s.readEntry .cpu 0xA000))
      (exec (.setwr .cpu 0xA000 (.write (.mirror 0)) 0xA000) (inst vNrom romFour))
      = some (⟨.mirror 0, .mapper, 0xA000⟩, readPowerOn) := by decide

theorem test_setwr_phase :
    refusalOf (exec (.setwr .cpu 0x8000 (.write .shift) 0x8000) fresh) = some (.wrongPhase .empty) := by decide

theorem test_rd_open : byteOf (exec (.rdOpen ⟨.ppu, 9⟩) fresh) = some 0xD0 := byteOf_of rfl (by decide)

/-- B5: the draw is the answer and the last bus value, and the next draw is another. -/
theorem test_rd_external :
    byteOf (exec (.rdExternal ⟨.cpu, 0⟩) fresh) = some (Config.freeByte 0)
    ∧ field (fun s => s.draws) (exec (.rdExternal ⟨.cpu, 0⟩) fresh) = some 1 := ⟨byteOf_of rfl rfl, rfl⟩

theorem test_rd_store :
    byteOf (exec (.rdStore ⟨.cpu, 5⟩) { fresh with cpu :=
  ⟨[], [], [(5, 0x7E)], 0⟩ }) = some 0x7E := byteOf_of rfl (by decide)

/-- Past the end of the PPU store the output stays. -/
theorem test_rd_store_past_end : byteOf (exec (.rdStore ⟨.ppu, 0x4000⟩) fresh) = some 0xD0 :=
  byteOf_of rfl (by decide)

theorem test_wr_ignore : field (fun s => s.ppu.last) (exec (.wrIgnore ⟨.ppu, 0, 0x12⟩) fresh) = some 0x12 := by
  decide

theorem test_wr_external : field (fun s => s.cpu.last) (exec (.wrExternal ⟨.cpu, 0, 0x13⟩) fresh) = some 0x13 := by
  decide

theorem test_wr_store_kind :
    field (fun s => s.cpu.store) (exec (.wrStore ⟨.cpu, 0xFFFF, 0x7E⟩) fresh) = some [(0xFFFF, 0x7E)] := by decide

theorem test_wr_store_past_end :
    field (fun s => s.ppu.store) (exec (.wrStore ⟨.ppu, 0x4000, 0x7E⟩) fresh) = some [] := by decide

/-! ### Banks -/

/-- N4 and N12. -/
theorem test_normbank :
    byteOf (exec (.normbank 0xFFFD 49152 16384) fresh) = some 0
    ∧ byteOf (exec (.normbank 0x8000 49152 16384) fresh) = some 1 :=
  ⟨byteOf_of rfl (by decide), byteOf_of rfl (by decide)⟩

/-- N10 and N16. -/
theorem test_normbank_edges :
    byteOf (exec (.normbank 300 524288 1024) fresh) = some 44
    ∧ refusalOf (exec (.normbank 1 49152 0) fresh) = some .zeroBankSize :=
  ⟨byteOf_of rfl (by decide), by decide⟩

theorem test_sanitize :
    field (fun s => slotGet s.prgBank 0)
      (exec .sanitize { inst vNrom rom48 with prgBank := slotSet slotsZero 0 5 }) = some 2 := by decide

/-- P1 steps 3 and 4. -/
theorem test_rd_prg :
    byteOf (exec (.rdPrg ⟨.cpu, 0x8123⟩ 0 14) (inst vNrom rom48)) = some 0x23
    ∧ byteOf (exec (.rdPrg ⟨.cpu, 0xC005⟩ 1 14) { inst vNrom rom48 with prgBank := slotSet slotsZero 1 2 })
      = some 0xA3 := ⟨byteOf_of rfl (by decide), byteOf_of rfl (by decide)⟩

theorem test_rd_prg_past_end :
    byteOf (exec (.rdPrg ⟨.cpu, 0x8000⟩ 0 14) { inst vNrom rom48 with prgBank := slotSet slotsZero 0 3 })
      = some 0xC0 := byteOf_of rfl (by decide)

theorem test_rd_chr :
    byteOf (exec (.rdChr ⟨.ppu, 0x1FFF⟩ 1 12) { inst vNrom romChr with chrBank := slotSet slotsZero 1 7 })
      = some 7 := byteOf_of rfl (by decide)

/-- P1 steps 10 and 11: CHR-RAM. -/
theorem test_rd_chr_ram :
    byteOf (exec (.rdChr ⟨.ppu, 0x0010⟩ 0 13) { inst vNrom rom48 with chrRam :=
  [(0x10, 0xAB)] }) = some 0xAB := byteOf_of rfl (by decide)

theorem test_wr_chr :
    field (fun s => s.chrRam) (exec (.wrChr ⟨.ppu, 0x0010, 0xAB⟩ 0 13) (inst vNrom rom48)) = some [(0x10, 0xAB)] := by
  decide

/-- P4 step 6: a write to CHR ROM is dropped. -/
theorem test_wr_chr_rom :
    field (fun s => (s.chrRam, s.ppu.last)) (exec (.wrChr ⟨.ppu, 0, 0xEE⟩ 0 12) (inst vLatch romChr))
      = some ([], 0xEE) := by decide

/-! ### Mirroring -/

/-- X2, X19. -/
theorem test_mirroraddr :
    respOf (exec (.mirroraddr 0x2400 .horizontal) fresh) = some (.value 0x2000)
    ∧ respOf (exec (.mirroraddr 0xFFFF .vertical) fresh) = some (.value 0x27FF) := by decide

/-- X14, X15, X16. -/
theorem test_mirroraddr_modes :
    respOf (exec (.mirroraddr 0x2C05 .oneScreenA) fresh) = some (.value 0x2005)
    ∧ respOf (exec (.mirroraddr 0x2005 .oneScreenB) fresh) = some (.value 0x2405)
    ∧ respOf (exec (.mirroraddr 0x2C05 .fourScreen) fresh) = some (.value 0x2C05) := by decide

/-- `APPLYMIRROR V`, stale baking: the entry of `$2805` holds `param` `$2005`; `$3F00` is untouched. -/
theorem test_applymirror :
    ∃ t, exec (.applymirror .vertical) fresh = .next t ∧ t.readEntry .ppu 0x2805 = ⟨.store, .none, 0x2005⟩
      ∧ t.writeEntry .ppu 0x3F00 = writePowerOn :=
  ⟨_, rfl, by rw [State.applyMirror, Laws.readEntry_fillEntries]; decide,
    by rw [State.applyMirror, Laws.writeEntry_fillEntries]; decide⟩

theorem test_applyctlmirror :
    ∃ t, exec .applyctlmirror (inst vSerial romChr) = .next t
      ∧ t.readEntry .ppu 0x3EFF = ⟨.ntDyn, .mapper, 0x3EFF⟩ :=
  ⟨_, rfl, by rw [State.applyCtlMirror, Laws.readEntry_fillEntries]; decide⟩

/-- H folds `$2405` to `$2005`. -/
theorem test_rd_nt_dyn :
    byteOf (exec (.rdNtDyn ⟨.ppu, 0x2405⟩)
      { inst vSerial romChr with ppu := ⟨[], [], [(0x2005, 0x11)], 0⟩ }) = some 0x11 := byteOf_of rfl (by decide)

/-- P2 step 14's fold, for V: `$2C05` is `$2405`. -/
theorem test_wr_nt_dyn :
    field (fun s => s.ppu.store) (exec (.wrNtDyn ⟨.ppu, 0x2C05, 0x22⟩)
      { inst vSerial rom48 with mirrorMode := .vertical }) = some [(0x2405, 0x22)] := by decide

/-- P3 step 9 (bit 0 set: H) and P4 step 18 (clear: V). -/
theorem test_wr_mirror :
    field (fun s => s.mirrorMode) (exec (.wrMirror ⟨.cpu, 0xA000, 0x01⟩ 0)
      { inst (vIndexed false) romChr with mirrorMode := .vertical }) = some .horizontal
    ∧ field (fun s => s.mirrorMode) (exec (.wrMirror ⟨.cpu, 0xF000, 0x00⟩ 0) (inst vLatch romChr))
      = some .vertical := by decide

/-- F14. -/
theorem test_wr_mirror_four_screen :
    field (fun s => s.mirrorMode) (exec (.wrMirror ⟨.cpu, 0xA000, 0⟩ 0)
      { inst vNrom romFour with mirrorMode := .fourScreen }) = some .fourScreen := by decide

/-! ### VRC counters -/

def vrcAt (counter prescaler : Nat) : State :=
  withIrq (.vrc8 ⟨BitVec.ofNat 8 counter, 0xFD, 0b0101, BitVec.ofNat 16 prescaler⟩) (inst vVrc8 rom48)

/-- V3: prescaler 2 becomes 340 and the counter steps. -/
theorem test_tick :
    field (fun s => s.irq) (exec .tick (vrcAt 0xFD 2)) = some (.vrc8 ⟨0xFE, 0xFD, 0b0101, 340⟩) := by decide

/-- V6: the wrap reloads and asserts. -/
theorem test_tick_wraps :
    field (fun s => (s.irq, s.irqOut, s.calls)) (exec .tick (vrcAt 0xFF 3))
      = some (.vrc8 ⟨0xFD, 0xFD, 0b0101, 341⟩, true, [.irq]) := by decide

theorem test_wr_vrc_latch :
    field (fun s => s.irq) (exec (.wrVrcLatch ⟨.cpu, 0xF000, 0xFD⟩) (inst vVrc8 rom48))
      = some (.vrc8 ⟨0, 0xFD, 0, 341⟩) := by decide

/-- V14. -/
theorem test_wr_vrc_latch_lo :
    field (fun s => s.irq) (exec (.wrVrcLatchLo ⟨.cpu, 0xF000, 0xFE⟩) (inst vVrc16 rom48))
      = some (.vrc16 ⟨0, 0x00FE, 0, 341⟩) := by decide

theorem test_wr_vrc_latch_hi :
    field (fun s => s.irq) (exec (.wrVrcLatchHi ⟨.cpu, 0xF001, 0xFF⟩)
      (withIrq (.vrc16 ⟨0, 0x00FE, 0, 341⟩) (inst vVrc16 rom48))) = some (.vrc16 ⟨0, 0xFFFE, 0, 341⟩) := by decide

/-- V1 and V9: E loads the counter, and without E it stays. -/
theorem test_wr_vrc_ctrl :
    field (fun s => s.irq) (exec (.wrVrcCtrl ⟨.cpu, 0xF001, 0x05⟩)
      (withIrq (.vrc8 ⟨0, 0xFD, 0, 7⟩) (inst vVrc8 rom48))) = some (.vrc8 ⟨0xFD, 0xFD, 0b0101, 341⟩)
    ∧ field (fun s => s.irq) (exec (.wrVrcCtrl ⟨.cpu, 0xF001, 0xF1⟩)
      (withIrq (.vrc8 ⟨0, 0xFD, 0, 7⟩) (inst vVrc8 rom48))) = some (.vrc8 ⟨0, 0xFD, 0b0001, 341⟩) := by decide

/-- V11 and V13. -/
theorem test_wr_vrc_ack :
    field (fun s => (s.irq, s.irqOut)) (exec (.wrVrcAck ⟨.cpu, 0xF002, 0⟩) { vrcAt 0xFD 341 with irqOut := true })
      = some (.vrc8 ⟨0xFD, 0xFD, 0b0001, 341⟩, false)
    ∧ field (fun s => s.irq) (exec (.wrVrcAck ⟨.cpu, 0xF002, 0⟩)
      (withIrq (.vrc8 ⟨1, 2, 0b0111, 3⟩) (inst vVrc8 rom48))) = some (.vrc8 ⟨1, 2, 0b0111, 3⟩) := by decide

/-- An instance with the layout of spec/93_implementation_defined.md G4: A in bit 0, E in bit 1, M in bit 2, cycle mode
at M = 1. -/
def g4 (s : State) : State := { s with params := { s.params with vrcBits := ⟨2, 0, 1, 3, true⟩ } }

/-- R182 and R186 in that layout: 0x02 sets E alone and loads the counter, 0x05 sets M and A and does not; an acknowledge
copies bit 0 into bit 1. -/
theorem test_vrc_layout :
    field (fun s => s.irq) (exec (.wrVrcCtrl ⟨.cpu, 0xF001, 0x02⟩)
      (g4 (withIrq (.vrc8 ⟨0, 0xFD, 0, 7⟩) (inst vVrc8 rom48)))) = some (.vrc8 ⟨0xFD, 0xFD, 0b0010, 341⟩)
    ∧ field (fun s => s.irq) (exec (.wrVrcCtrl ⟨.cpu, 0xF001, 0x05⟩)
      (g4 (withIrq (.vrc8 ⟨0, 0xFD, 0, 7⟩) (inst vVrc8 rom48)))) = some (.vrc8 ⟨0, 0xFD, 0b0101, 341⟩)
    ∧ field (fun s => s.irq) (exec (.wrVrcAck ⟨.cpu, 0xF002, 0⟩)
      (g4 (withIrq (.vrc8 ⟨1, 2, 0b0101, 3⟩) (inst vVrc8 rom48)))) = some (.vrc8 ⟨1, 2, 0b0111, 3⟩) := by decide

/-! ### MMC3 counter -/

def m3At (r : Mmc3) (now : Nat) : State :=
  { withIrq (.mmc3 r) (inst (vIndexed false) romChr) with wires := ⟨romChr, now, ⟨0⟩, 0⟩ }

theorem test_wr_m3_latch :
    field (fun s => s.irq) (exec (.wrM3Latch ⟨.cpu, 0xC000, 2⟩) (m3At mmc3Init 0))
      = some (.mmc3 ⟨0, 2, false, false, 0, false, false⟩) := by decide

theorem test_wr_m3_reload :
    field (fun s => s.irq) (exec (.wrM3Reload ⟨.cpu, 0xC001, 0⟩) (m3At mmc3Init 0))
      = some (.mmc3 ⟨0, 0, true, false, 0, false, false⟩) := by decide

/-- M8. -/
theorem test_wr_m3_disable :
    field (fun s => (s.irq, s.irqOut))
      (exec (.wrM3Disable ⟨.cpu, 0xE000, 0xFF⟩)
        { m3At ⟨0, 0, false, true, 0, false, false⟩ 0 with irqOut := true })
      = some (.mmc3 mmc3Init, false) := by decide

theorem test_wr_m3_enable :
    field (fun s => s.irq) (exec (.wrM3Enable ⟨.cpu, 0xE001, 0⟩) (m3At mmc3Init 0))
      = some (.mmc3 ⟨0, 0, false, true, 0, false, false⟩) := by decide

/-- P3 step 20: the counter goes from 1 to 0 and fires. -/
theorem test_rd_chr_a12 :
    field (fun s => (s.irq, s.irqOut)) (exec (.rdChrA12 ⟨.ppu, 0x1000⟩ 4 10)
      (m3At ⟨1, 2, false, true, 111, false, true⟩ 115))
      = some (.mmc3 ⟨0, 2, false, true, 111, true, true⟩, true) := by decide

/-- P3 step 16: two cycles low or less do not clock. -/
theorem test_rd_chr_a12_short :
    field (fun s => s.irq) (exec (.rdChrA12 ⟨.ppu, 0x1000⟩ 4 10)
      (m3At ⟨1, 2, false, true, 105, false, true⟩ 107))
      = some (.mmc3 ⟨1, 2, false, true, 105, true, true⟩) := by decide

/-- M9: a write is sampled too. -/
theorem test_wr_chr_a12 :
    field (fun s => s.irq) (exec (.wrChrA12 ⟨.ppu, 0x1000, 0⟩ 4 10)
      (m3At ⟨0, 2, false, false, 100, false, true⟩ 104))
      = some (.mmc3 ⟨2, 2, false, false, 100, true, true⟩) := by decide

/-! ### Families -/

/-- P2 step 4: the fifth bit commits to `ctl` and recomputes. -/
theorem test_wr_shift :
    field (fun s => (s.family, s.mirrorMode, slotGet s.prgBank 1)) (exec (.wrShift ⟨.cpu, 0x8000, 1⟩)
      (withFamily (.serial ⟨0b0101, 4, 0x0C, 0, 0, 0⟩) (inst vSerial romChr)))
      = some (.serial ⟨0, 0, 0x15, 0, 0, 0⟩, .oneScreenB, 1) := by decide

/-- F3: bit 7 resets and bit 0 is not shifted. -/
theorem test_wr_shift_reset :
    field (fun s => s.family) (exec (.wrShift ⟨.cpu, 0x8000, 0x81⟩)
      (withFamily (.serial ⟨3, 2, 0x11, 0, 0, 0⟩) (inst vSerial romChr)))
      = some (.serial ⟨0, 0, 0x1D, 0, 0, 0⟩) := by decide

/-- F6. -/
theorem test_wr_select :
    field (fun s => (slotGet s.prgBank 0, slotGet s.prgBank 2)) (exec (.wrSelect ⟨.cpu, 0x8000, 0x46⟩)
      (withFamily (.indexed ⟨6, regSet (Vector.replicate 8 0) 6 5⟩) (inst (vIndexed false) romChr)))
      = some (14, 5) := by decide

/-- P3 step 8: `CINV` puts R2 in slot 0. -/
theorem test_wr_data :
    field (fun s => slotGet s.chrBank 0) (exec (.wrData ⟨.cpu, 0x9FFF, 9⟩)
      (withFamily (.indexed ⟨0x82, Vector.replicate 8 0⟩) (inst (vIndexed false) romChr))) = some 9 := by decide

/-- F9 and F10. -/
theorem test_wr_direct :
    field (fun s => slotGet s.prgBank 0) (exec (.wrDirect ⟨.cpu, 0x8000, 5⟩ false 0 14 7) (inst (vUnrom 7) rom48))
      = some 2
    ∧ field (fun s => slotGet s.prgBank 0) (exec (.wrDirect ⟨.cpu, 0x8000, 0xFD⟩ false 0 14 7)
      (inst (vUnrom 7) rom48)) = some 2 := by decide

/-- F12. -/
theorem test_wr_direct_chr :
    field (fun s => slotGet s.chrBank 0) (exec (.wrDirect ⟨.cpu, 0x8000, 3⟩ true 0 13 3) (inst (vCnrom 3) rom48))
      = some 0 := by decide

/-- F13. -/
def latched (l : Latch) : State :=
  { withFamily (.latch ⟨l, .undef⟩) (inst vLatch romChr) with
    chrBank := slotSet (slotSet slotsZero 0 4) 1 7 }

theorem test_rd_chr_latched :
    byteOf (exec (.rdChrLatched ⟨.ppu, 0x0010⟩ false 0 12 1) (latched .a)) = some 4
    ∧ byteOf (exec (.rdChrLatched ⟨.ppu, 0x0010⟩ false 0 12 1) (latched .b)) = some 7 :=
  ⟨byteOf_of rfl (by decide), byteOf_of rfl (by decide)⟩

theorem test_rd_chr_latched_undef :
    byteOf (exec (.rdChrLatched ⟨.ppu, 0x0010⟩ false 0 12 1) (latched .undef)) = some 0xD0 :=
  byteOf_of rfl (by decide)

/-! ### Trampolines -/

/-- T1, the tables after its commands. -/
def wrapped : State :=
  { latched .undef with
    ppu := ⟨[(0x0FD8, ⟨.tramp (.latch 1 2), .tramp 1, 0x0FD8⟩)],
      [(0x0FD8, ⟨.tramp (.latch 0 2), .tramp 2, 0x0FD8⟩)], [(0x0FD8, 0x5A)], 0⟩
    tramp := [⟨.rd ⟨.store, .none, 0x0FD8⟩, .mapper⟩,
      ⟨.rd ⟨.tramp (.latch 0 1), .tramp 0, 0x0FD8⟩, .mapper⟩,
      ⟨.wr ⟨.store, .none, 0x0FD9⟩, .mapper⟩] }

theorem test_rd_tramp :
    field (fun s => s.family) (exec (.rd .ppu 0x0FD8) wrapped) = some (.latch ⟨.a, .b⟩)
    ∧ byteOf (exec (.rd .ppu 0x0FD8) wrapped) = some 0x5A
    ∧ field (fun s => s.family) (exec (.rdTramp ⟨.ppu, 0⟩ 0 (.latch 1 1)) wrapped)
      = some (.latch ⟨.undef, .a⟩) := ⟨by decide, byteOf_of rfl (by decide), by decide⟩

theorem test_wr_tramp :
    field (fun s => (s.family, s.ppu.store)) (exec (.wrTramp ⟨.ppu, 0x0FD8, 0x31⟩ 2 (.latch 0 2)) wrapped)
      = some (.latch ⟨.b, .undef⟩, [(0x0FD8, 0x5A), (0x0FD9, 0x31)]) := by decide

/-- A record of the other half is no record for a read. -/
theorem test_rd_tramp_dangling :
    refusalOf (exec (.rdTramp ⟨.ppu, 0⟩ 2 (.latch 0 1)) wrapped) = some .danglingContext := by decide

theorem test_wraprd :
    field (fun s => (s.readEntry .ppu 0x0FD8, s.tramp.length))
      (exec (.wraprd .ppu 0x0FD8 (.read (.tramp (.latch 0 1))) 0x0FD8) wrapped)
      = some (⟨.tramp (.latch 0 1), .tramp 3, 0x0FD8⟩, 4) := by decide

/-- T4. -/
theorem test_wraprd_phase :
    refusalOf (exec (.wraprd .ppu 0 (.read (.tramp (.latch 0 1))) 0) fresh) = some (.wrongPhase .empty) := by decide

theorem test_wrapwr :
    field (fun s => s.tramp) (exec (.wrapwr .ppu 5 (.write (.tramp (.latch 0 1))) 5) (inst vLatch romChr))
      = some [⟨.wr writePowerOn, .mapper⟩] := by decide

theorem test_se_latch :
    field (fun s => s.family) (exec (.seLatch 1 2) wrapped) = some (.latch ⟨.undef, .b⟩) := by decide

/-! ### Lifecycle and hooks -/

/-- P2 step 1. -/
theorem test_init :
    field (fun s => (s.phase, s.mirrorMode, s.family))
      (exec .init { fresh with params := ⟨vSerial, .none, true, Config.vrcBits, 8⟩, wires := ⟨romChr, 0, ⟨0⟩, 0⟩ })
      = some (.loaded, .horizontal, .serial ⟨0, 0, 0x0C, 0, 0, 0⟩) := by decide

theorem test_init_dead : refusalOf (exec .init { fresh with phase := .dead }) = some (.wrongPhase .dead) := by decide

/-- P1 step 2: the last bank in slot 1. -/
theorem test_applymap :
    ∃ t, exec .applymap { inst (vUnrom 7) rom48 with phase := .loaded } = .next t
      ∧ slotGet t.prgBank 0 = 0 ∧ slotGet t.prgBank 1 = 2 ∧ t.phase = .mapped :=
  ⟨_, rfl, by decide, by decide, rfl⟩

/-- H1. -/
theorem test_applymap_phase : refusalOf (exec .applymap fresh) = some (.wrongPhase .empty) := by decide

/-- P1 step 2: the entry of `$8000`, and P4 step 1: that of `$1FEA` before its trampoline. -/
theorem test_map_entries :
    mapCpuWrite (vUnrom 7) 0x8000 = ⟨.direct false 0 14 7, .mapper, 0x8000⟩
    ∧ mapPpuRead vLatch 0x1FEA = ⟨.chrLatched true 2 12 3, .mapper, 0x1FEA⟩ := by decide

/-- P4 step 19. -/
theorem test_reset :
    field (fun s => (slotGet s.prgBank 1, s.family, s.mirrorMode))
      (exec .reset { inst vLatch romChr with mirrorMode := .vertical, family := .latch ⟨.a, .b⟩ })
      = some (13, .latch ⟨.undef, .undef⟩, .horizontal) := by decide

/-- H3: `TEARDOWN` releases the entries; `TICK` after it is refused. -/
theorem test_teardown :
    field (fun s => (s.phase, s.readEntry .ppu 0x0FD8, s.tramp)) (exec .teardown wrapped)
      = some (.dead, readPowerOn, []) := by decide

theorem test_tick_dead : refusalOf (exec .tick { fresh with phase := .dead }) = some (.wrongPhase .dead) := by decide

/-- H5. -/
theorem test_savebatt : ∃ w, respOf (exec .savebatt (inst vNrom rom48)) = some (.value w) ∧ w.getLsbD 0 = true :=
  ⟨_, rfl, (by rw [BitVec.getLsbD_append]; rfl)⟩

/-- H6. -/
theorem test_extaudio : respOf (exec .extaudio (inst vNrom rom48)) = some (.sample ⟨7⟩) := by decide

theorem test_postaudio : respOf (exec .postaudio (inst vNrom rom48)) = some (.sample ⟨7⟩) := by decide

/-- The reference variants satisfy R271. -/
theorem test_variants_valid :
    variantValid vNrom = true ∧ variantValid (vUnrom 7) = true ∧ variantValid (vCnrom 3) = true
    ∧ variantValid vSerial = true ∧ variantValid vVrc8 = true ∧ variantValid vVrc16 = true
    ∧ variantValid (vIndexed true) = true ∧ variantValid vLatch = true := by decide

/-- A record without CHR windows may have any sanitize size but 0; an A12 row needs the MMC3 counter (R203). -/
theorem test_variant_edges :
    variantValid { vNrom with chrWindows := [], chrSanSize := 65536 } = true
    ∧ variantValid { vNrom with chrWindows := [], chrSanSize := 0 } = false
    ∧ variantValid { vNrom with cpuWrites := [⟨0x8000, 0x8000, .chrA12 0 13⟩] } = false
    ∧ variantValid { vIndexed false with cpuWrites := [⟨0x8000, 0x8000, .chrA12 0 13⟩] } = true := by decide

/-- The trampolines of `V_LATCH` are 18 (T3). -/
theorem test_latch_wraps : (vLatch.wraps.map wrapLength).sum = 18 := by decide

/-! ### Witnesses: the hypotheses of each obligation can be met -/

theorem inst_trampsOk (v : Variant) (rom : Rom) : (inst v rom).trampsOk := by
  refine ⟨fun sp => ?_, fun k r h => ?_⟩
  · cases sp <;> exact ⟨fun e h => absurd h (List.not_mem_nil), fun e h => absurd h (List.not_mem_nil)⟩
  · exact absurd h (by simp [inst, State.powerOn])

theorem inst_tablesWf (v : Variant) (rom : Rom) : (inst v rom).tablesWf := by
  intro sp; cases sp <;> exact ⟨⟨List.Pairwise.nil, nofun⟩, ⟨List.Pairwise.nil, nofun⟩⟩

/-- The state of T1: a trampoline over a trampoline over a store read, and one on the write half. -/
theorem wrapped_trampsOk : wrapped.trampsOk := by
  refine ⟨fun sp => ?_, fun k r h => ?_⟩
  · cases sp
    · exact ⟨fun e h => absurd h (List.not_mem_nil), fun e h => absurd h (List.not_mem_nil)⟩
    · refine ⟨fun e h => ?_, fun e h => ?_⟩
      · obtain rfl := List.mem_singleton.1 h
        exact ⟨fun h => absurd h (by decide), fun _ => ⟨1, _, _, rfl, by decide, rfl⟩⟩
      · obtain rfl := List.mem_singleton.1 h
        exact ⟨fun h => absurd h (by decide), fun _ => ⟨2, _, _, rfl, by decide, rfl⟩⟩
  · match k, h with
    | 0, h => cases h; exact ⟨fun _ => rfl, fun h => absurd h (by decide)⟩
    | 1, h => cases h; exact ⟨fun h => absurd h (by decide), fun _ => ⟨0, _, _, rfl, by decide, rfl⟩⟩
    | 2, h => cases h; exact ⟨fun _ => rfl, fun h => absurd h (by decide)⟩

/-- Both sides of the equivalence: a word R105 names and one it does not. -/
theorem witness_MalformedWordsAreExactlyThoseNamed :
    malformed 0x1401000000000008000201 = true ∧ malformed 0x14010FD80FD80008000102 = false
    ∧ malformed 0x120000000000000600AF00 = true ∧ malformed 0x1200000000000006000F00 = false := by decide

/-- An address of each class, at both ends of its 8 KB block. -/
theorem witness_AddressClassSelectsTheWriteKind :
    mapCpuWrite (vIndexed false) 0x8000 = ⟨.select, .mapper, 0x8000⟩
    ∧ mapCpuWrite (vIndexed false) 0x9FFF = ⟨.data, .mapper, 0x9FFF⟩
    ∧ mapCpuWrite (vIndexed false) 0xBFFE = ⟨.mirror 0, .mapper, 0xBFFE⟩
    ∧ mapCpuWrite (vIndexed false) 0xA001 = ⟨.ignore, .none, 0xA001⟩
    ∧ mapCpuWrite (vIndexed true) 0xC000 = ⟨.m3Latch, .mapper, 0xC000⟩
    ∧ mapCpuWrite (vIndexed true) 0xDFFF = ⟨.m3Reload, .mapper, 0xDFFF⟩
    ∧ mapCpuWrite (vIndexed true) 0xE000 = ⟨.m3Disable, .mapper, 0xE000⟩
    ∧ mapCpuWrite (vIndexed true) 0xFFFF = ⟨.m3Enable, .mapper, 0xFFFF⟩ := by decide

theorem witness_StepRunsTheDecodedInstruction :
    let s := issued 0x1000800000000000000000 (inst vNrom rom48)
    ∃ e rest i, s.port = e :: rest ∧ variantValid s.params.variant = true ∧ s.wires.now ≤ e.wires.now
      ∧ decodeCommand e.word = .ok i ∧ i.wellFormed = true :=
  ⟨_, _, .rd .cpu 0x8000, rfl, by decide, by decide, rfl, by decide⟩

/-- An idle port; an invalid record; a clock that went back; a malformed word at an equal clock. -/
theorem witness_StepStopsByName :
    fresh.port = []
    ∧ variantValid { vNrom with prgSanSize := 3 } = false
    ∧ (let s := { issued 0 (inst vNrom rom48) with port := [⟨0, ⟨rom48, 99, ⟨0⟩, 0⟩⟩] }
       variantValid s.params.variant = true ∧ s.port = [⟨0, ⟨rom48, 99, ⟨0⟩, 0⟩⟩] ∧ 99 < s.wires.now)
    ∧ (let s := issued 0 (inst vNrom rom48)
       ∃ e rest, s.port = e :: rest ∧ variantValid s.params.variant = true ∧ s.wires.now ≤ e.wires.now
        ∧ malformed e.word = true) :=
  ⟨rfl, by decide, by decide, ⟨_, _, rfl, by decide, by decide, by decide⟩⟩

/-- An entry that is a trampoline, and one that is not. -/
theorem witness_AccessRunsTheKindOfItsEntry :
    wrapped.trampsOk ∧ (wrapped.readEntry .ppu 0x0FD8).fn = .tramp (.latch 1 2)
    ∧ (wrapped.writeEntry .cpu 0x8000).fn = .ignore := ⟨wrapped_trampsOk, by decide, by decide⟩

theorem witness_AccessAlwaysCompletes :
    wrapped.trampsOk ∧ (∃ h o, wrapped.tramp[1]? = some ⟨.rd h, o⟩) ∧ ∃ h o, wrapped.tramp[2]? = some ⟨.wr h, o⟩ :=
  ⟨wrapped_trampsOk, ⟨_, _, rfl⟩, ⟨_, _, rfl⟩⟩

theorem witness_TrampolineForwards :
    wrapped.trampsOk ∧ (∃ h o, wrapped.tramp[0]? = some ⟨.rd h, o⟩) ∧ ∃ h o, wrapped.tramp[2]? = some ⟨.wr h, o⟩ :=
  ⟨wrapped_trampsOk, ⟨_, _, rfl⟩, ⟨_, _, rfl⟩⟩

theorem witness_TwoWrapsRunBothSideEffects :
    wrapped.trampsOk ∧ wrapped.live = true ∧ SideEffect.wellFormed (.latch 0 1) = true
    ∧ SideEffect.wellFormed (.latch 1 2) = true := ⟨wrapped_trampsOk, by decide, by decide, by decide⟩

/-- The last byte inside and the first past the end of the PPU store; every CPU `param` is inside. -/
theorem witness_BusReadsAnswer :
    (0x3FFF#16).toNat < spaceSize .ppu ∧ spaceSize .ppu ≤ (0x4000#16).toNat
    ∧ (0xFFFF#16).toNat < spaceSize .cpu := by decide

/-- The last byte of the third bank, and the first past the ROM. -/
theorem witness_PrgWindowRead :
    let s := inst vNrom rom48
    2 * 2 ^ 14 + 0x3FFF < s.prgSize ∧ s.prgSize ≤ 3 * 2 ^ 14 := by decide

/-- CHR ROM, CHR-RAM, and past the end of each. -/
theorem witness_ChrWindowRead :
    (inst vNrom romChr).chrMemSize = 8 * 4096 ∧ 0 < (inst vNrom romChr).chrSize
    ∧ (inst vNrom rom48).chrSize = 0 ∧ (inst vNrom rom48).chrMemSize = 8192 := by decide

theorem witness_LatchedWindowRead :
    ((latched .undef).family = .latch ⟨.undef, .undef⟩ ∧ latchOf ⟨.undef, .undef⟩ true = .undef)
    ∧ ((latched .a).family = .latch ⟨.a, .undef⟩ ∧ latchOf ⟨.a, .undef⟩ false = .a)
    ∧ ((latched .b).family = .latch ⟨.b, .undef⟩ ∧ latchOf ⟨.b, .undef⟩ false = .b)
    ∧ ∀ r, (inst vNrom rom48).family ≠ .latch r := ⟨by decide, by decide, by decide, nofun⟩

/-- A CHR-RAM instance with an index inside, one past the end, and an instance with CHR ROM. -/
theorem witness_ChrWindowWrite :
    (inst vNrom rom48).chrSize = 0 ∧ windowIndex 0 13 0x1FFF < 8192 ∧ 8192 ≤ windowIndex 1 13 0
    ∧ (inst vNrom romChr).chrSize ≠ 0 := by decide

/-- Bank size 0; a bank size above the memory; one that fits. -/
theorem witness_NormbankAnswer :
    (0#16 = 0) ∧ (16384#16 ≠ 0 ∧ (8192#32).toNat / (16384#16).toNat = 0)
    ∧ (16384#16 ≠ 0 ∧ (16384#32).toNat / (16384#16).toNat ≠ 0) := by decide

theorem witness_SanitizeNormalisesEverySlot : (inst vNrom rom48).live = true := by decide

theorem witness_ApplyCtlMirrorInstallsLookups : (inst vSerial rom48).live = true := by decide

theorem witness_MirrorWriteSetsTheMode :
    (inst vNrom romFour).rom.mirroring = .fourScreen
    ∧ ((inst vSerial rom48).rom.mirroring ≠ .fourScreen ∧ (0xFE#8).toNat % 2 = 0 ∧ (0xFF#8).toNat % 2 = 1) := by
  decide

/-- A kind of the bus at phase `EMPTY`, and a kind of the mapper in a live instance. -/
theorem witness_InstallOverwritesOneEntry :
    ((Kind.read .store).okSetrd = true ∧ readCtx .store = .none ∧ fresh.live = false)
    ∧ ((Kind.read (.prg 31 15)).okSetrd = true ∧ (inst vNrom rom48).live = true)
    ∧ ((Kind.write .ignore).okSetwr = true ∧ writeCtx .ignore = .none)
    ∧ ((Kind.write (.direct true 31 10 255)).okSetwr = true ∧ (inst vNrom rom48).live = true) := by decide

theorem witness_WrapCapturesThenInstalls :
    (inst vLatch romChr).live = true ∧ SideEffect.wellFormed (.latch 1 2) = true := by decide

theorem witness_InitBuildsTheInstance : (inst vNrom rom48).tablesWf ∧ (inst vNrom rom48).phase ≠ .dead :=
  ⟨inst_tablesWf _ _, by decide⟩

/-- A valid record with gaps in both window ranges and two matching register rows for each address. -/
def vGaps : Variant :=
  { vNrom with
    prgWindows := [⟨0xC000, 16384, 1, -1⟩], chrWindows := [⟨0x1000, 4096, .plain 1 0⟩], chrSanSize := 4096
    cpuWrites := [⟨0xC000, 0xC000, .ignore⟩, ⟨0x8000, 0x8000, .direct false 0 14 7⟩] }

/-- Addresses of each clause of the CPU halves at the ends of its range: in a window and in a gap, a first and a second
matching row and none, cartridge RAM, an address no record claims. -/
theorem witness_ApplyMapBuildsTheEntries_cpu :
    (inst vGaps romChr).tablesWf ∧ variantValid vGaps = true ∧ (inst vGaps romChr).live = true
    ∧ vGaps.wraps.any (wrapCovers .cpu 0x8000) = false
    ∧ (⟨0xC000, 16384, 1, -1⟩ ∈ vGaps.prgWindows ∧ 0xFFFF < 0xC000 + 16384 ∧ 16384 = 2 ^ (14#8).toNat)
    ∧ (∀ w ∈ vGaps.prgWindows, 0xBFFF < w.base ∨ w.base + w.size ≤ 0xBFFF)
    ∧ (vGaps.cpuWrites = [] ++ ⟨0xC000, 0xC000, .ignore⟩ :: [⟨0x8000, 0x8000, .direct false 0 14 7⟩]
        ∧ 0xC000#16 &&& 0xC000 = 0xC000)
    ∧ (vGaps.cpuWrites = [⟨0xC000, 0xC000, .ignore⟩] ++ ⟨0x8000, 0x8000, .direct false 0 14 7⟩ :: []
        ∧ 0xBFFF#16 &&& 0x8000 = 0x8000 ∧ 0xBFFF#16 &&& 0xC000 ≠ 0xC000)
    ∧ (∀ x ∈ vNrom.cpuWrites, 0x8000#16 &&& x.mask ≠ x.pattern)
    ∧ 0 < vSerial.prgRamSize ∧ vGaps.prgRamSize = 0 := ⟨inst_tablesWf _ _, by decide⟩

/-- The same for the PPU halves: a plain window with and without the MMC3 counter, a latched one, a gap, both mirror
strategies, and the last 256 addresses. -/
theorem witness_ApplyMapBuildsTheEntries :
    (inst vLatch romChr).tablesWf ∧ variantValid vLatch = true ∧ (inst vLatch romChr).live = true
    ∧ variantValid (vIndexed false) = true
    ∧ vLatch.wraps.any (wrapCovers .ppu 0x0FD7) = false ∧ vLatch.wraps.any (wrapCovers .ppu 0x3F00) = false
    ∧ (⟨0x1000, 4096, .plain 1 0⟩ ∈ vGaps.chrWindows ∧ vGaps.irq ≠ .mmc3)
    ∧ (∀ w ∈ vGaps.chrWindows, 0x0FFF < w.base ∨ w.base + w.size ≤ 0x0FFF)
    ∧ (⟨0x1C00, 1024, .plain 7 0⟩ ∈ (vIndexed false).chrWindows ∧ (vIndexed false).irq = .mmc3)
    ∧ ⟨0x0000, 4096, .latched false 0 1 0 0⟩ ∈ vLatch.chrWindows
    ∧ vNrom.mirror = .static ∧ vLatch.mirror = .controllable := ⟨inst_tablesWf _ _, by decide⟩

/-- A valid record whose second row covers an address of the first. -/
def vTwice : Variant :=
  { vLatch with wraps := [⟨.ppu, 0x0FD8, 0x0FD8, .latch 0 1⟩, ⟨.ppu, 0x0FD7, 0x0FD8, .latch 1 2⟩] }

/-- The first and the second covering row of an address, and the indices of their records. -/
theorem witness_ApplyMapBuildsTheTrampolines :
    (inst vTwice romChr).tablesWf ∧ variantValid vTwice = true ∧ (inst vTwice romChr).live = true
    ∧ (vTwice.wraps = [] ++ ⟨.ppu, 0x0FD8, 0x0FD8, .latch 0 1⟩ :: [⟨.ppu, 0x0FD7, 0x0FD8, .latch 1 2⟩]
      ∧ wrapCovers .ppu 0x0FD8 ⟨.ppu, 0x0FD8, 0x0FD8, .latch 0 1⟩ = true
      ∧ wrapIndex [] ⟨.ppu, 0x0FD8, 0x0FD8, .latch 0 1⟩ 0x0FD8 = 0)
    ∧ (vTwice.wraps = [⟨.ppu, 0x0FD8, 0x0FD8, .latch 0 1⟩] ++ ⟨.ppu, 0x0FD7, 0x0FD8, .latch 1 2⟩ :: []
      ∧ wrapCovers .ppu 0x0FD8 ⟨.ppu, 0x0FD7, 0x0FD8, .latch 1 2⟩ = true
      ∧ wrapIndex [⟨.ppu, 0x0FD8, 0x0FD8, .latch 0 1⟩] ⟨.ppu, 0x0FD7, 0x0FD8, .latch 1 2⟩ 0x0FD8 = 2) :=
  ⟨inst_tablesWf _ _, by decide⟩

/-- Both phases. -/
theorem witness_ApplyMapSetsInitialBanksOnce :
    (let s := { inst vNrom rom48 with phase := .loaded }; s.live = true ∧ s.phase = .loaded)
    ∧ ((inst vNrom rom48).live = true ∧ (inst vNrom rom48).phase = .mapped) := by decide

theorem witness_ResetRestoresTheRegisters : (inst vLatch romChr).live = true := by decide

theorem witness_TeardownReleasesEverything :
    fresh.tablesWf ∧ ∃ t, exec .teardown { fresh with phase := .dead } = .next t ∧ t.phase = .dead :=
  ⟨by intro sp; cases sp <;> decide, _, rfl, rfl⟩

theorem witness_HooksAnswer : (inst vNrom rom48).live = true := by decide

/-- A command of each answer of the table. -/
theorem witness_PhaseTable :
    (Instr.wellFormed .tick = true ∧ readPartsOf .tick = none ∧ writePartsOf .tick = none
      ∧ legalIn .empty .tick = false ∧ legalIn .mapped .tick = true)
    ∧ (legalIn .dead .init = false ∧ legalIn .empty .init = true)
    ∧ (inst vNrom rom48).trampsOk ∧ ∀ idx mem, Instr.tick ≠ .normbank idx mem 0 :=
  ⟨by decide, by decide, inst_trampsOk _ _, nofun⟩

/-- Cycle mode at an underflow and scanline mode with the parameter, in the 8-bit variant. -/
theorem witness_TickOfTheEightBitCounter :
    (vrcAt 0xFF 3).live = true ∧ (vrcAt 0xFF 3).irq = .vrc8 ⟨0xFF, 0xFD, 0b0101, 3⟩ := by decide

def vrc16At (counter : Nat) (ctrl : BitVec 4) : State :=
  withIrq (.vrc16 ⟨BitVec.ofNat 16 counter, 0x12FE, ctrl, 2⟩) (inst vVrc16 rom48)

/-- V15's wrap of the low byte with S = 1, and the whole counter with S = 0. -/
theorem witness_TickOfTheSixteenBitCounter :
    (vrc16At 0x12FF 0b1101).live = true ∧ (vrc16At 0x12FF 0b1101).irq = .vrc16 ⟨0x12FF, 0x12FE, 0b1101, 2⟩
    ∧ (0b1101#4).getLsbD (vrc16At 0 0).params.vrcBits.s = true
    ∧ (0b0101#4).getLsbD (vrc16At 0 0).params.vrcBits.s = false
    ∧ field (fun s => (s.irq, s.irqOut)) (exec .tick (vrc16At 0x12FF 0b1101))
      = some (.vrc16 ⟨0x12FE, 0x12FE, 0b1101, 340⟩, true) := by decide

/-- The 8-bit counter with the default layout, the 16-bit one with another. -/
theorem witness_VrcTimingLaw :
    (∃ s s1, s = inst vVrc8 rom48 ∧ s.live = true ∧ (0x05#8).getLsbD s.params.vrcBits.m = s.params.vrcBits.cycleMode
      ∧ (0x05#8).getLsbD s.params.vrcBits.e = true
      ∧ exec (.wrVrcCtrl ⟨.cpu, 0xF001, 0x05⟩) s = .next s1 ∧ s.irq = .vrc8 ⟨0, 0, 0, 341⟩)
    ∧ ∃ s s1, s = g4 (inst vVrc16 rom48) ∧ s.live = true
      ∧ (0x06#8).getLsbD s.params.vrcBits.m = s.params.vrcBits.cycleMode
      ∧ (0x06#8).getLsbD s.params.vrcBits.e = true
      ∧ exec (.wrVrcCtrl ⟨.cpu, 0xF002, 0x06⟩) s = .next s1
      ∧ s.irq = .vrc16 ⟨0, 0, 0, 341⟩ ∧ (0x06#8).getLsbD s.params.vrcBits.s = false :=
  ⟨⟨_, _, rfl, by decide, by decide, by decide, rfl, by decide⟩,
    ⟨_, _, rfl, by decide, by decide, by decide, rfl, by decide, by decide⟩⟩

/-- A counter of each variant, for the register writes. -/
theorem witness_VrcLatchWrites :
    (inst vVrc8 rom48).irq = .vrc8 vrc8Init ∧ (inst vVrc16 rom48).irq = .vrc16 vrc16Init := by decide

theorem witness_VrcControlWrite :
    (inst vVrc8 rom48).irq = .vrc8 vrc8Init ∧ (inst vVrc16 rom48).irq = .vrc16 vrc16Init := by decide

theorem witness_VrcAcknowledge :
    (inst vVrc8 rom48).irq = .vrc8 vrc8Init ∧ (inst vVrc16 rom48).irq = .vrc16 vrc16Init := by decide

theorem witness_Mmc3RegisterWrites : (inst (vIndexed false) rom48).irq = .mmc3 mmc3Init := by decide

/-- An instance with no counter and the direct family meets every clause. -/
theorem witness_KindsWithoutTheirStateDoNothing :
    let s := inst vNrom rom48
    (∀ r, s.irq ≠ .vrc8 r) ∧ (∀ r, s.irq ≠ .vrc16 r) ∧ s.live = true ∧ (∀ r, s.irq ≠ .mmc3 r)
    ∧ (∀ r, s.family ≠ .serial r) ∧ (∀ r, s.family ≠ .indexed r) ∧ ∀ r, s.family ≠ .latch r :=
  ⟨nofun, nofun, by decide, nofun, nofun, nofun, nofun⟩

/-- Each clause: past the range, the first sample, a low sample, a short rise, and a rise of exactly three. -/
theorem witness_A12SampleClocksTheCounter :
    (m3At mmc3Init 5).irq = .mmc3 mmc3Init ∧ 0x1FFF < (0x2000#16).toNat
    ∧ ((0x1FFF#16).toNat ≤ 0x1FFF ∧ mmc3Init.a12Init = false)
    ∧ ((0x0FFF#16).toNat ≤ 0x1FFF ∧ decide ((0x0FFF#16).toNat / 4096 % 2 = 1) = false)
    ∧ (let r : Mmc3 := ⟨0, 2, false, false, 100, false, true⟩
       (m3At r 102).irq = .mmc3 r ∧ r.a12Init = true ∧ decide ((0x1000#16).toNat / 4096 % 2 = 1) = true
        ∧ (m3At r 102).wires.now - r.a12LowSince < 3
        ∧ 3 ≤ (m3At r 103).wires.now - r.a12LowSince ∧ r.a12High = false) := by decide

/-- M1's samples: a fall at 110, a low sample at 111, a rise at 113, a high sample at 114. -/
theorem witness_A12FilterCountsRisingEdges :
    let r : Mmc3 := ⟨0, 2, false, false, 100, true, true⟩
    r.a12Init = true ∧ r.a12High = true ∧ 3 ≤ 113 - 110
    ∧ (a12Run false [(false, 110), (false, 111), (true, 113), (true, 114)] r).counter = 2 := by decide

/-- A rise in a tick and in an access that samples A12; a fall in an acknowledge and in a disable. -/
theorem witness_LineRisesAndFalls :
    (∃ s t, exec .tick s = .next t ∧ s.irqOut = false ∧ t.irqOut = true)
    ∧ (∃ s t, exec (.rdChrA12 ⟨.ppu, 0x1000⟩ 4 10) s = .next t ∧ s.irqOut = false ∧ t.irqOut = true)
    ∧ (∃ s t, exec (.wrVrcAck ⟨.cpu, 0xF002, 0⟩) s = .next t ∧ s.irqOut = true ∧ t.irqOut = false)
    ∧ ∃ s t, exec (.wrM3Disable ⟨.cpu, 0xE000, 0⟩) s = .next t ∧ s.irqOut = true ∧ t.irqOut = false :=
  ⟨⟨vrcAt 0xFF 3, _, rfl, by decide, by decide⟩,
    ⟨m3At ⟨1, 2, false, true, 111, false, true⟩ 115, _, rfl, by decide, by decide⟩,
    ⟨{ vrcAt 0xFF 3 with irqOut := true }, _, rfl, by decide, by decide⟩,
    ⟨{ m3At mmc3Init 0 with irqOut := true }, _, rfl, by decide, by decide⟩⟩

/-- Each clause: a reset, a bit that shifts, the fifth bit. -/
theorem witness_SerialWrite :
    (withFamily (.serial ⟨3, 3, 0, 0, 0, 0⟩) (inst vSerial romChr)).family = .serial ⟨3, 3, 0, 0, 0, 0⟩
    ∧ (0x80#8).getLsbD 7 = true ∧ (0x7F#8).getLsbD 7 = false ∧ (3#3 ≠ 4) ∧ (4#3 = 4) := by decide

theorem witness_FiveSerialWritesAssembleARegister :
    (inst vSerial romChr).family = .serial serialInit ∧ serialInit.shCnt = 0 ∧ serialInit.shVal = 0
    ∧ ∀ v ∈ [1#8, 0#8, 1#8, 0#8, 1#8], v.getLsbD 7 = false := by decide

theorem witness_IndexedWrites : (inst (vIndexed false) romChr).family = .indexed indexedInit := by decide

theorem witness_LatchSideEffect :
    SideEffect.wellFormed (.latch 0 2) = true ∧ SideEffect.wellFormed (.latch 1 1) = true
    ∧ (inst vLatch romChr).family = .latch latchesInit := by decide

theorem witness_TablesFrame :
    mayWriteTables (.rd .ppu 0x0FD8) = false ∧ ∃ t, exec (.rd .ppu 0x0FD8) wrapped = .next t := ⟨by decide, _, rfl⟩

/-- The store to `$0FD9` through a trampoline, and an address beside it. -/
theorem witness_MemoryFrame :
    (∃ t, exec (.wrTramp ⟨.ppu, 0x0FD8, 0x31⟩ 2 (.latch 0 2)) wrapped = .next t)
    ∧ storeTarget wrapped (.wrTramp ⟨.ppu, 0x0FD8, 0x31⟩ 2 (.latch 0 2)) = some (.ppu, 0x0FD9)
    ∧ chrRamTarget (inst vNrom rom48) (.wrChr ⟨.ppu, 0x10, 0⟩ 0 13) = some 0x10
    ∧ chrRamTarget (inst vNrom romChr) (.wrChr ⟨.ppu, 0x10, 0⟩ 0 13) = none := ⟨⟨_, rfl⟩, by decide⟩

theorem witness_RegistersFrame :
    (∃ t, exec (.rdOpen ⟨.cpu, 0⟩) fresh = .next t) ∧ mayWriteBanks (.rdOpen ⟨.cpu, 0⟩) = false
    ∧ mayWriteMirror (.rdOpen ⟨.cpu, 0⟩) = false ∧ mayWriteIrq (.rdOpen ⟨.cpu, 0⟩) = false
    ∧ mayWriteFamily (.rdOpen ⟨.cpu, 0⟩) = false := ⟨⟨_, rfl⟩, by decide⟩

theorem witness_OtherStateFrame :
    (∃ t, exec (.wrIgnore ⟨.cpu, 0, 1⟩) fresh = .next t) ∧ mayWriteLine (.wrIgnore ⟨.cpu, 0, 1⟩) = false
    ∧ mayWritePhase (.wrIgnore ⟨.cpu, 0, 1⟩) = false ∧ accessSpace (.wrIgnore ⟨.cpu, 0, 1⟩) ≠ some .ppu
    ∧ mayRespond (.wrIgnore ⟨.cpu, 0, 1⟩) = false ∧ mayDraw (.wrIgnore ⟨.cpu, 0, 1⟩) = false :=
  ⟨⟨_, rfl⟩, by decide⟩

/-- A step from an instance that meets every invariant. -/
theorem witness_CanonicalFormsAreKept :
    let s := issued 0x1100123400004000000000 (inst vNrom rom48)
    s.memoriesWf ∧ s.tablesWf ∧ ∃ t, step s = .next t :=
  ⟨⟨by intro sp; cases sp <;> decide, by decide⟩, by intro sp; cases sp <;> decide, _, rfl⟩

theorem witness_TrampolinesStaySound :
    let s := issued 0x10010FD800000000000000 wrapped
    s.trampsOk ∧ s.lifetimeOk ∧ ∃ t, step s = .next t :=
  ⟨wrapped_trampsOk, fun h => absurd h (by decide), _, rfl⟩

theorem witness_BanksStayInRange :
    let s := issued 0x2100000000000000000000 (inst vNrom rom48)
    s.kindsWf ∧ s.banksOk ∧ ∃ t, step s = .next t := by
  refine ⟨⟨fun sp => ?_, nofun⟩, fun slot => ⟨Or.inl ?_, Or.inl ?_⟩, _, rfl⟩
  · cases sp <;> exact ⟨nofun, nofun⟩
  · exact Laws.slotGet_zero slot
  · exact Laws.slotGet_zero slot

theorem witness_RegistersStayConsistent :
    let s := issued 0x0300000000000000000000 (inst vVrc8 rom48)
    s.registersMatch ∧ s.shiftCountOk ∧ s.prescalerOk ∧ s.lineOk ∧ ∃ t, step s = .next t :=
  ⟨⟨rfl, rfl⟩, nofun, ⟨fun r h => by cases h; decide, nofun⟩, nofun, _, rfl⟩

/-- The power-on memories are in canonical form. -/
theorem test_power_on_memories_wf : State.reset.memoriesWf :=
  ⟨by intro sp; cases sp <;> exact ⟨List.Pairwise.nil, nofun⟩, ⟨List.Pairwise.nil, nofun⟩⟩

end Sys2Proof.Tests
end

section
/-! SUPPORT. What a word that decodes says of its fields: every check of R105's table passes on a command word that
decodes to a well-formed instruction. -/

namespace Sys2Proof.Proofs

open Sys2Proof Sys2Proof.Machine

theorem exceptMap_ok {ε α β : Type} {f : α → β} {x : Except ε α} {y : β} (h : x.map f = .ok y) :
    ∃ a, x = .ok a ∧ y = f a := by
  cases x with
  | error e => nomatch h
  | ok a => cases h; exact ⟨a, rfl, rfl⟩

/-! ### Single fields -/

theorem spaceOfByte_ok_lt {b : Byte} {sp : Space} (h : spaceOfByte b = .ok sp) : b.toNat < 2 := by
  unfold spaceOfByte at h
  split at h
  · omega
  · omega
  · nomatch h

theorem mirrorOfCode_some_lt {code : BitVec 3} {m : MirrorMode} (h : mirrorOfCode code = some m) :
    code.toNat < 5 := by
  unfold mirrorOfCode at h
  split at h
  case h_6 => nomatch h
  all_goals omega

/-- With `c[7:3] = 0` the byte is its own mode code (R95). -/
theorem mirrorOfByte_ok_lt {c : Byte} {m : MirrorMode} (h : mirrorOfByte c = .ok m) : c.toNat < 5 := by
  unfold mirrorOfByte at h
  split at h
  case isFalse => nomatch h
  case isTrue hhigh =>
    split at h
    case h_2 => nomatch h
    case h_1 _ hcode =>
      have hlow := mirrorOfCode_some_lt hcode
      simp only [BitVec.toNat_eq, BitVec.extractLsb'_toNat, Nat.shiftRight_eq_div_pow, BitVec.toNat_zero]
        at hhigh hlow
      omega

theorem log2Ok_eq (n : Byte) : log2Ok n = decide (10 ≤ n.toNat ∧ n.toNat ≤ 15) :=
  (Bool.decide_and _ _).symm

theorem byte_beq_eq_decide (x y : Byte) : (x == y) = decide (x.toNat = y.toNat) := by
  rw [Bool.eq_iff_iff]
  simp [BitVec.toNat_inj]

theorem wellFormed_of_sideEffectOf {f1 f2 f3 : Byte} {se : SideEffect} (h : sideEffectOf f1 f2 f3 = .ok se) :
    se.wellFormed = sideEffectFields f1.toNat f2.toNat f3.toNat := by
  unfold sideEffectOf at h
  split at h
  case isFalse => nomatch h
  case isTrue hf1 =>
    cases h
    simp [hf1, SideEffect.wellFormed, sideEffectFields, byte_beq_eq_decide]

/-! ### Descriptors -/

/-- What the four install commands ask of a kind is what R105's table asks of its descriptor's fields. -/
theorem installable_of_kindOfFields {kind f1 f2 f3 : Byte} {hd : Kind}
    (h : kindOfFields kind f1 f2 f3 = .ok hd) :
    hd.okSetrd = setrdDescriptor kind.toNat f2.toNat
    ∧ hd.okSetwr = setwrDescriptor kind.toNat f1.toNat f2.toNat
    ∧ hd.okWraprd = (decide (kind.toNat = 0x08) && sideEffectFields f1.toNat f2.toNat f3.toNat)
    ∧ hd.okWrapwr = (decide (kind.toNat = 0x95) && sideEffectFields f1.toNat f2.toNat f3.toNat) := by
  unfold kindOfFields at h
  split at h
  case h_31 => nomatch h
  case h_9 hkind | h_30 hkind =>
    obtain ⟨se, hse, rfl⟩ := exceptMap_ok h
    simp [hkind, Kind.okSetrd, Kind.okSetwr, Kind.okWraprd, Kind.okWrapwr, setrdDescriptor, setwrDescriptor,
      ReadKind.isTramp, ReadKind.wellFormed, WriteKind.isTramp, WriteKind.wellFormed,
      wellFormed_of_sideEffectOf hse]
  all_goals
    rename_i hkind
    cases h
    simp [hkind, Kind.okSetrd, Kind.okSetwr, Kind.okWraprd, Kind.okWrapwr, setrdDescriptor, setwrDescriptor,
      ReadKind.isTramp, ReadKind.wellFormed, WriteKind.isTramp, WriteKind.wellFormed, log2Ok_eq,
      byte_beq_eq_decide]

theorem kindOfDescriptor_fieldsOf (w : BitVec 88) :
    kindOfDescriptor (fieldsOf w).hd
      = kindOfFields (w.extractLsb' 24 8) (w.extractLsb' 16 8) (w.extractLsb' 8 8) (w.extractLsb' 0 8) := by
  simp [kindOfDescriptor, fieldsOf]

theorem installOf_ok {mk : Space → Addr → Kind → Addr → Instr} {f : CommandFields} {i : Instr}
    (h : installOf mk f = .ok i) :
    ∃ sp hd, spaceOfByte f.sp = .ok sp ∧ kindOfDescriptor f.hd = .ok hd ∧ i = mk sp f.a hd f.b := by
  unfold installOf at h
  cases hsp : spaceOfByte f.sp with
  | error e => rw [hsp] at h; nomatch h
  | ok sp =>
    cases hhd : kindOfDescriptor f.hd with
    | error e => rw [hsp, hhd] at h; nomatch h
    | ok hd => rw [hsp, hhd] at h; cases h; exact ⟨sp, hd, rfl, rfl, rfl⟩

/-! ### Command words -/

/-- Nothing R105 names runs: one case per operation (R91), by the fields it uses. -/
theorem not_malformed_of_decodeCommand {w : BitVec 88} {i : Instr} (h : decodeCommand w = .ok i)
    (hwf : i.wellFormed = true) : malformed w = false := by
  unfold decodeCommand commandOfFields at h
  split at h
  case h_20 => nomatch h
  -- `RD`, `WR`
  case h_9 hop | h_10 hop =>
    change (w.extractLsb' 80 8).toNat = _ at hop
    obtain ⟨sp, hsp, -⟩ := exceptMap_ok h
    have hlt : (w.extractLsb' 72 8).toNat < 2 := spaceOfByte_ok_lt hsp
    simp [malformed, opDefined, hop, hlt, -BitVec.extractLsb'_toNat]
  -- `SETRD`, `SETWR`, `WRAPRD`, `WRAPWR`
  case h_11 hop | h_12 hop | h_13 hop | h_14 hop =>
    change (w.extractLsb' 80 8).toNat = _ at hop
    obtain ⟨sp, hd, hsp, hhd, rfl⟩ := installOf_ok h
    have hlt : (w.extractLsb' 72 8).toNat < 2 := spaceOfByte_ok_lt hsp
    rw [kindOfDescriptor_fieldsOf] at hhd
    obtain ⟨hsetrd, hsetwr, hwraprd, hwrapwr⟩ := installable_of_kindOfFields hhd
    simp only [Instr.wellFormed, hsetrd, hsetwr, hwraprd, hwrapwr] at hwf
    simp [malformed, opDefined, hop, hlt, hwf, -BitVec.extractLsb'_toNat]
  -- `MIRRORADDR`, `APPLYMIRROR`
  case h_17 hop | h_18 hop =>
    change (w.extractLsb' 80 8).toNat = _ at hop
    obtain ⟨m, hm, -⟩ := exceptMap_ok h
    have hlt : (w.extractLsb' 32 8).toNat < 5 := mirrorOfByte_ok_lt hm
    simp [malformed, opDefined, hop, hlt, -BitVec.extractLsb'_toNat]
  -- the operations whose fields are never malformed
  all_goals
    rename_i hop
    change (w.extractLsb' 80 8).toNat = _ at hop
    simp [malformed, opDefined, hop, -BitVec.extractLsb'_toNat]

end Sys2Proof.Proofs
end

section
/-! SUPPORT. What a step does, one rule per way the command port answers, and O5 and O6 from these rules. -/

namespace Sys2Proof.Proofs

open Sys2Proof Sys2Proof.Machine

section Port

variable {s : State} {e : Issue} {rest : List Issue}

theorem step_of_idle (hport : s.port = []) : step s = .next s := by
  simp [step, fetch, hport]

theorem step_of_notAVariant (hport : s.port = e :: rest) (hvalid : variantValid s.params.variant = false) :
    step s = .refused .notAVariant := by
  simp [step, fetch, hport, hvalid]

theorem step_of_clockDecreased (hport : s.port = e :: rest) (hvalid : variantValid s.params.variant = true)
    (hclock : e.wires.now < s.wires.now) : step s = .refused .clockDecreased := by
  simp [step, fetch, hport, hvalid, hclock]

variable (hport : s.port = e :: rest) (hvalid : variantValid s.params.variant = true)
  (hclock : s.wires.now ≤ e.wires.now)
include hport hvalid hclock

theorem step_of_decodes {i : Instr} (hdec : decodeCommand e.word = .ok i) (hwf : i.wellFormed = true) :
    step s = exec i (s.accept e rest) := by
  simp [step, fetch, hport, hvalid, Nat.not_lt.2 hclock, hdec, hwf]

theorem step_of_illFormed {i : Instr} (hdec : decodeCommand e.word = .ok i) (hwf : i.wellFormed = false) :
    step s = .refused .illFormed := by
  simp [step, fetch, hport, hvalid, Nat.not_lt.2 hclock, hdec, hwf]

theorem step_of_invalidCommand {why : Invalid} (hdec : decodeCommand e.word = .error why) :
    step s = .refused (.invalidCommand why) := by
  simp [step, fetch, hport, hvalid, Nat.not_lt.2 hclock, hdec]

/-- A word R105 names is refused by name: it decodes to nothing, or to what may not run. -/
theorem step_of_malformed (hmal : malformed e.word = true) :
    step s = .refused .illFormed ∨ ∃ why, step s = .refused (.invalidCommand why) := by
  cases hdec : decodeCommand e.word with
  | error why => exact .inr ⟨why, step_of_invalidCommand hport hvalid hclock hdec⟩
  | ok i =>
    have hwf : i.wellFormed = false := by
      rw [← Bool.not_eq_true]
      intro hwf
      rw [not_malformed_of_decodeCommand hdec hwf] at hmal
      nomatch hmal
    exact .inl (step_of_illFormed hport hvalid hclock hdec hwf)

end Port

/-- Settles O5: a valid record, a clock that did not go back and a well-formed word are all `fetch` asks for. -/
theorem stepRunsTheDecodedInstruction : Obligations.StepRunsTheDecodedInstruction := by
  intro s e rest i hport hvalid hclock hdec hwf
  exact step_of_decodes hport hvalid hclock hdec hwf

/-- Settles O6: one rule of the step per clause, and the type of faults is empty (R320). -/
theorem stepStopsByName : Obligations.StepStopsByName := by
  intro s
  refine ⟨step_of_idle, ?_, ?_, ?_, fun f => nomatch f⟩
  · exact fun e rest hport hvalid => step_of_notAVariant hport hvalid
  · exact fun e rest hport hvalid hclock => step_of_clockDecreased hport hvalid hclock
  · exact fun e rest hport hvalid hclock hmal => step_of_malformed hport hvalid hclock hmal

end Sys2Proof.Proofs
end

section
/-! SUPPORT. What an instruction can do, said once: `exec_completes` gives the one way `exec` can answer a next state,
by the instruction's group, and `step_preserves` carries a property of states over a step. The frames and the
invariants below are derived from these two. -/

namespace Sys2Proof.Proofs

open Sys2Proof Sys2Proof.Machine Sys2Proof.Laws

/-! ### The instructions that install entries -/

/-- The six commands whose whole effect is on the dispatch tables and the record list (R120, R121, R162, R163, R220,
R221). -/
inductive Installs (s : State) : Instr → State → Prop where
  | setrd (sp : Space) (a : Addr) (fn : ReadKind) (p : Addr) (hwf : fn.wellFormed = true) :
      Installs s (.setrd sp a (.read fn) p) (s.putReadEntry sp a ⟨fn, readCtx fn, p⟩)
  | setwr (sp : Space) (a : Addr) (fn : WriteKind) (p : Addr) (hwf : fn.wellFormed = true) :
      Installs s (.setwr sp a (.write fn) p) (s.putWriteEntry sp a ⟨fn, writeCtx fn, p⟩)
  | wraprd (sp : Space) (a : Addr) (se : SideEffect) (p : Addr) (hwf : se.wellFormed = true) :
      Installs s (.wraprd sp a (.read (.tramp se)) p) (s.wrapRead sp a se p)
  | wrapwr (sp : Space) (a : Addr) (se : SideEffect) (p : Addr) (hwf : se.wellFormed = true) :
      Installs s (.wrapwr sp a (.write (.tramp se)) p) (s.wrapWrite sp a se p)
  | applymirror (mode : MirrorMode) : Installs s (.applymirror mode) (s.applyMirror mode)
  | applyctlmirror : Installs s .applyctlmirror s.applyCtlMirror

/-- The five commands whose whole effect is their response (R91, R140, R160, R305 to R307). -/
inductive Answers (s : State) : Instr → Answer → Prop where
  | savebatt : Answers s .savebatt (.flag s.params.hasBattery)
  | extaudio : Answers s .extaudio (.sample s.wires.sample)
  | postaudio : Answers s .postaudio (.sample s.wires.sample)
  | normbank (idx : BitVec 16) (mem : BitVec 32) (size : BitVec 16) :
      Answers s (.normbank idx mem size) (.byte (normalizeBank idx.toInt mem.toNat size.toNat))
  | mirroraddr (a : Addr) (mode : MirrorMode) : Answers s (.mirroraddr a mode) (.word (mirrorAddress a mode))

/-- `i` is a read that ends in `fn` after the side effects `ses`: an `RD` or a trampoline, whatever they reach, or `fn`
itself, which has none before it (R122, R222). -/
def runsRead (i : Instr) (c : ReadCall) (fn : ReadKind) (ses : List SideEffect) : Prop :=
  (∃ a, i = .rd c.sp a) ∨ (∃ p k se, i = .rdTramp ⟨c.sp, p⟩ k se) ∨ ∃ k, i = readInstr c k fn ∧ ses = []

/-- The same of a write (R123, R223). -/
def runsWrite (i : Instr) (c : WriteCall) (fn : WriteKind) (ses : List SideEffect) : Prop :=
  (∃ a, i = .wr c.sp a c.v) ∨ (∃ p k se, i = .wrTramp ⟨c.sp, p, c.v⟩ k se) ∨ ∃ k, i = writeInstr c k fn ∧ ses = []

/-- The ways an instruction completes, one per group of instructions with one effect. -/
inductive Completes (s : State) : Instr → State → Prop where
  | init : Completes s .init s.initWithRom
  | applymap : Completes s .applymap s.applyMap
  | tick : Completes s .tick s.tickIrq
  | reset : Completes s .reset s.resetMapper
  | teardown : Completes s .teardown { s.releaseEntries.irqClear with phase := .dead }
  | sanitize : Completes s .sanitize s.sanitize
  | answers (i : Instr) (r : Answer) (h : Answers s i r) : Completes s i (s.respond r)
  | installs (i : Instr) (t : State) (h : Installs s i t) : Completes s i t
  | seLatch (w st : Byte) : Completes s (.seLatch w st) (s.runSideEffect (.latch w st))
  | read (i : Instr) (ses : List SideEffect) (fn : ReadKind) (c : ReadCall)
      (hr : readReached s i = some (c.sp, fn, c.param)) (hi : runsRead i c fn ses) :
      Completes s i ((s.runSideEffects ses).readThrough c.sp (runRead fn c.sp c.param))
  | write (i : Instr) (ses : List SideEffect) (fn : WriteKind) (c : WriteCall)
      (hw : writeReached s i = some (c.sp, fn, c.param)) (hi : runsWrite i c fn ses) :
      Completes s i (runWrite fn c.sp c.param c.v ((s.setLast c.sp c.v).runSideEffects ses))

theorem whenLive_next {s t : State} {r : Result} (h : s.whenLive r = .next t) : r = .next t := by
  unfold State.whenLive at h
  split at h
  · exact h
  · nomatch h

theorem dispatchRead_next {h : ReadRef} {sp : Space} {s t : State} (hd : dispatchRead h sp s = .next t) :
    ∃ ses fn param, resolveRead s.tramp s.tramp.length h = some (ses, fn, param)
      ∧ t = (s.runSideEffects ses).readThrough sp (runRead fn sp param) := by
  unfold dispatchRead at hd
  split at hd
  · next ses fn param hr => cases hd; exact ⟨ses, fn, param, hr, rfl⟩
  · nomatch hd

theorem dispatchWrite_next {h : WriteRef} {sp : Space} {v : Byte} {s t : State}
    (hd : dispatchWrite h sp v s = .next t) :
    ∃ ses fn param, resolveWrite s.tramp s.tramp.length h = some (ses, fn, param)
      ∧ t = runWrite fn sp param v ((s.setLast sp v).runSideEffects ses) := by
  unfold dispatchWrite at hd
  split at hd
  · next ses fn param hr => cases hd; exact ⟨ses, fn, param, hr, rfl⟩
  · nomatch hd

theorem completes_of_setrd {sp : Space} {a : Addr} {hd : Kind} {p : Addr} {s t : State}
    (h : execSetrd sp a hd p s = .next t) : Completes s (.setrd sp a hd p) t := by
  cases hd with
  | write fn => nomatch h
  | read fn =>
    simp only [execSetrd] at h
    split at h
    · next hok =>
      have hwf : fn.wellFormed = true := (Bool.and_eq_true_iff.mp hok).1
      have ht : s.putReadEntry sp a ⟨fn, readCtx fn, p⟩ = t := by
        split at h
        · cases h; rfl
        · cases whenLive_next h; rfl
      exact ht ▸ .installs _ _ (.setrd sp a fn p hwf)
    · nomatch h

theorem completes_of_setwr {sp : Space} {a : Addr} {hd : Kind} {p : Addr} {s t : State}
    (h : execSetwr sp a hd p s = .next t) : Completes s (.setwr sp a hd p) t := by
  cases hd with
  | read fn => nomatch h
  | write fn =>
    simp only [execSetwr] at h
    split at h
    · next hok =>
      have hwf : fn.wellFormed = true := (Bool.and_eq_true_iff.mp hok).1
      have ht : s.putWriteEntry sp a ⟨fn, writeCtx fn, p⟩ = t := by
        split at h
        · cases h; rfl
        · cases whenLive_next h; rfl
      exact ht ▸ .installs _ _ (.setwr sp a fn p hwf)
    · nomatch h

theorem completes_of_wraprd {sp : Space} {a : Addr} {hd : Kind} {p : Addr} {s t : State}
    (h : execWraprd sp a hd p s = .next t) : Completes s (.wraprd sp a hd p) t := by
  unfold execWraprd at h
  split at h
  · split at h
    · next hwf => cases whenLive_next h; exact .installs _ _ (.wraprd sp a _ p hwf)
    · nomatch h
  · nomatch h

theorem completes_of_wrapwr {sp : Space} {a : Addr} {hd : Kind} {p : Addr} {s t : State}
    (h : execWrapwr sp a hd p s = .next t) : Completes s (.wrapwr sp a hd p) t := by
  unfold execWrapwr at h
  split at h
  · split at h
    · next hwf => cases whenLive_next h; exact .installs _ _ (.wrapwr sp a _ p hwf)
    · nomatch h
  · nomatch h

theorem readKind_eq_tramp {fn : ReadKind} (h : fn.isTramp = true) : ∃ se, fn = .tramp se := by
  cases fn with
  | tramp se => exact ⟨se, rfl⟩
  | _ => nomatch h

theorem writeKind_eq_tramp {fn : WriteKind} (h : fn.isTramp = true) : ∃ se, fn = .tramp se := by
  cases fn with
  | tramp se => exact ⟨se, rfl⟩
  | _ => nomatch h

theorem readReached_readInstr (s : State) (c : ReadCall) (k : Nat) {fn : ReadKind} (h : fn.isTramp = false) :
    readReached s (readInstr c k fn) = some (c.sp, fn, c.param) := by
  cases fn with
  | tramp se => nomatch h
  | _ => rfl

theorem writeReached_writeInstr (s : State) (c : WriteCall) (k : Nat) {fn : WriteKind} (h : fn.isTramp = false) :
    writeReached s (writeInstr c k fn) = some (c.sp, fn, c.param) := by
  cases fn with
  | tramp se => nomatch h
  | _ => rfl

theorem eq_readInstr_of_readParts {i : Instr} {c : ReadCall} {k : Nat} {fn : ReadKind}
    (hp : readPartsOf i = some (c, k, fn)) : i = readInstr c k fn := by
  cases i <;> cases hp <;> rfl

theorem eq_writeInstr_of_writeParts {i : Instr} {c : WriteCall} {k : Nat} {fn : WriteKind}
    (hp : writePartsOf i = some (c, k, fn)) : i = writeInstr c k fn := by
  cases i <;> cases hp <;> rfl

/-- A read kind as an instruction runs itself, or, a trampoline, what it forwards to. -/
theorem completes_of_readParts {i : Instr} {c : ReadCall} {k : Nat} {fn : ReadKind}
    (hp : readPartsOf i = some (c, k, fn)) {s t : State} (h : exec i s = .next t) : Completes s i t := by
  rw [exec_readParts hp] at h
  obtain ⟨ses, fn', param, hres, rfl⟩ := dispatchRead_next h
  obtain rfl := eq_readInstr_of_readParts hp
  cases hf : fn.isTramp with
  | false =>
    rw [resolveRead_plain _ _ _ hf] at hres
    cases hres
    exact .read _ [] fn c (readReached_readInstr s c k hf) (.inr (.inr ⟨k, rfl, rfl⟩))
  | true =>
    obtain ⟨se, rfl⟩ := readKind_eq_tramp hf
    have hreached : readReached s (readInstr c k (.tramp se)) = some (c.sp, fn', param) := by
      simp only [readInstr, readReached, hres, Option.map_some]
    exact .read _ ses fn' ⟨c.sp, param⟩ hreached (.inr (.inl ⟨c.param, k, se, rfl⟩))

/-- A write kind as an instruction runs itself, or, a trampoline, what it forwards to. -/
theorem completes_of_writeParts {i : Instr} {c : WriteCall} {k : Nat} {fn : WriteKind}
    (hp : writePartsOf i = some (c, k, fn)) {s t : State} (h : exec i s = .next t) : Completes s i t := by
  rw [exec_writeParts hp] at h
  obtain ⟨ses, fn', param, hres, rfl⟩ := dispatchWrite_next h
  obtain rfl := eq_writeInstr_of_writeParts hp
  cases hf : fn.isTramp with
  | false =>
    rw [resolveWrite_plain _ _ _ hf] at hres
    cases hres
    exact .write _ [] fn c (writeReached_writeInstr s c k hf) (.inr (.inr ⟨k, rfl, rfl⟩))
  | true =>
    obtain ⟨se, rfl⟩ := writeKind_eq_tramp hf
    have hreached : writeReached s (writeInstr c k (.tramp se)) = some (c.sp, fn', param) := by
      simp only [writeInstr, writeReached, hres, Option.map_some]
    exact .write _ ses fn' ⟨c.sp, param, c.v⟩ hreached (.inr (.inl ⟨c.param, k, se, rfl⟩))

/-- Every instruction that completes does so in the way of its group. -/
theorem exec_completes {i : Instr} {s t : State} (h : exec i s = .next t) : Completes s i t := by
  cases i
  case init =>
    simp only [exec, execInit] at h
    split at h
    · nomatch h
    · cases h; exact .init
  case applymap => cases whenLive_next h; exact .applymap
  case tick => cases whenLive_next h; exact .tick
  case reset => cases whenLive_next h; exact .reset
  case savebatt => cases whenLive_next h; exact .answers _ _ .savebatt
  case extaudio => cases whenLive_next h; exact .answers _ _ .extaudio
  case postaudio => cases whenLive_next h; exact .answers _ _ .postaudio
  case teardown => cases h; exact .teardown
  case rd sp a =>
    obtain ⟨ses, fn, param, hres, rfl⟩ := dispatchRead_next h
    exact .read _ ses fn ⟨sp, param⟩ (by simp only [readReached, hres, Option.map_some]) (.inl ⟨a, rfl⟩)
  case wr sp a v =>
    obtain ⟨ses, fn, param, hres, rfl⟩ := dispatchWrite_next h
    exact .write _ ses fn ⟨sp, param, v⟩ (by simp only [writeReached, hres, Option.map_some]) (.inl ⟨a, rfl⟩)
  case setrd => exact completes_of_setrd h
  case setwr => exact completes_of_setwr h
  case wraprd => exact completes_of_wraprd h
  case wrapwr => exact completes_of_wrapwr h
  case normbank =>
    simp only [exec, execNormbank] at h
    split at h
    · nomatch h
    · cases h; exact .answers _ _ (.normbank ..)
  case sanitize => cases whenLive_next h; exact .sanitize
  case mirroraddr => cases h; exact .answers _ _ (.mirroraddr ..)
  case applymirror => cases h; exact .installs _ _ (.applymirror _)
  case applyctlmirror => cases whenLive_next h; exact .installs _ _ .applyctlmirror
  case seLatch => cases h; exact .seLatch _ _
  case rdOpen | rdExternal | rdStore | rdPrg | rdChr | rdChrA12 | rdChrLatched | rdNtDyn | rdTramp =>
    exact completes_of_readParts rfl h
  all_goals exact completes_of_writeParts rfl h

/-! ### A property over a step -/

/-- What taking a command and every well-formed instruction of a valid record keep, a step keeps. -/
theorem step_preserves {P : State → Prop} (haccept : ∀ {s} e rest, P s → P (s.accept e rest))
    (hexec : ∀ {i s t}, variantValid s.params.variant = true → i.wellFormed = true → P s → Completes s i t → P t)
    {s t : State} (hs : P s) (h : step s = .next t) : P t := by
  cases hport : s.port with
  | nil => rw [step_of_idle hport] at h; cases h; exact hs
  | cons e rest =>
    cases hvalid : variantValid s.params.variant with
    | false => rw [step_of_notAVariant hport hvalid] at h; nomatch h
    | true =>
      by_cases hclock : e.wires.now < s.wires.now
      · rw [step_of_clockDecreased hport hvalid hclock] at h; nomatch h
      · rw [Nat.not_lt] at hclock
        cases hdec : decodeCommand e.word with
        | error why => rw [step_of_invalidCommand hport hvalid hclock hdec] at h; nomatch h
        | ok i =>
          cases hwf : i.wellFormed with
          | false => rw [step_of_illFormed hport hvalid hclock hdec hwf] at h; nomatch h
          | true =>
            rw [step_of_decodes hport hvalid hclock hdec hwf] at h
            exact hexec (s := s.accept e rest) hvalid hwf (haccept e rest hs) (exec_completes h)

end Sys2Proof.Proofs
end

section
/-! SUPPORT. The frame of every instruction: which fields of the state it keeps, in the terms of the `mayWrite`
predicates (spec/10_state.md R21 to R40), and O51, O53 and O54 as its parts. -/

namespace Sys2Proof.Proofs

open Sys2Proof Sys2Proof.Machine Sys2Proof.Laws

/-! ### Effects of the lifecycle commands -/

theorem setMirror_eq (s : State) (m : MirrorMode) : s.setMirror m = { s with mirrorMode := m } := by
  cases m <;> rfl

theorem initWithRom_eq (s : State) :
    s.initWithRom = { s.releaseEntries with
      rom := s.wires.rom, prgBank := s.initWithRom.prgBank, chrBank := s.initWithRom.chrBank
      mirrorMode := s.wires.rom.mirroring, irq := irqInit s.params.variant.irq
      family := familyInit s.params.variant.family, irqOut := false, calls := s.calls ++ [.clearIrq]
      phase := .loaded } := by
  simp only [State.initWithRom, setMirror_eq]
  rfl

theorem resetMapper_changes (s : State) :
    ∃ p c, s.resetMapper = { s with
      prgBank := p, chrBank := c, mirrorMode := s.rom.mirroring, irq := irqInit s.params.variant.irq
      family := familyInit s.params.variant.family, irqOut := false, calls := s.calls ++ [.clearIrq] } := by
  obtain ⟨p, c, h⟩ := initWindows_changes s.zeroBanks
  exact ⟨p, c, by simp only [State.resetMapper, h, setMirror_eq]; rfl⟩

/-! ### Changes of the tables and the records alone -/

theorem sameOutsideTables_refl (s : State) : s.sameOutsideTables s := rfl

theorem exists_of_sameOutsideTables {s t : State} (h : s.sameOutsideTables t) :
    ∃ cr cw pr pw recs, t = { s with
      cpu := { s.cpu with rd := cr, wr := cw }, ppu := { s.ppu with rd := pr, wr := pw }, tramp := recs } := by
  refine ⟨t.cpu.rd, t.cpu.wr, t.ppu.rd, t.ppu.wr, t.tramp, ?_⟩
  unfold State.sameOutsideTables at h
  rw [← h]

theorem sameOutsideTables_trans {s t u : State} (hst : s.sameOutsideTables t) (htu : t.sameOutsideTables u) :
    s.sameOutsideTables u := by
  obtain ⟨_, _, _, _, _, rfl⟩ := exists_of_sameOutsideTables hst
  obtain ⟨_, _, _, _, _, rfl⟩ := exists_of_sameOutsideTables htu
  rfl

theorem params_of_sameOutsideTables {s t : State} (h : s.sameOutsideTables t) : t.params = s.params := by
  obtain ⟨_, _, _, _, _, rfl⟩ := exists_of_sameOutsideTables h
  rfl

theorem putReadEntry_sameOutsideTables (s : State) (sp : Space) (a : Addr) (h : ReadRef) :
    s.sameOutsideTables (s.putReadEntry sp a h) := by
  cases sp <;> rfl

theorem putWriteEntry_sameOutsideTables (s : State) (sp : Space) (a : Addr) (h : WriteRef) :
    s.sameOutsideTables (s.putWriteEntry sp a h) := by
  cases sp <;> rfl

theorem fillEntries_sameOutsideTables (s : State) (sp : Space) (lo n : Nat) (rd : Nat → ReadRef)
    (wr : Nat → WriteRef) : s.sameOutsideTables (s.fillEntries sp lo n rd wr) := by
  cases sp <;> rfl

theorem wrapRead_sameOutsideTables (s : State) (sp : Space) (a : Addr) (se : SideEffect) (p : Addr) :
    s.sameOutsideTables (s.wrapRead sp a se p) := by
  cases sp <;> rfl

theorem wrapWrite_sameOutsideTables (s : State) (sp : Space) (a : Addr) (se : SideEffect) (p : Addr) :
    s.sameOutsideTables (s.wrapWrite sp a se p) := by
  cases sp <;> rfl

theorem foldl_sameOutsideTables {α : Type} {f : State → α → State}
    (hf : ∀ (s : State) (a : α), s.sameOutsideTables (f s a)) (l : List α) (s : State) :
    s.sameOutsideTables (l.foldl f s) :=
  List.foldlRecOn l f (sameOutsideTables_refl s) fun t ht a _ => sameOutsideTables_trans ht (hf t a)

theorem mapPrgRam_sameOutsideTables (s : State) : s.sameOutsideTables s.mapPrgRam := by
  unfold State.mapPrgRam
  split
  · exact fillEntries_sameOutsideTables ..
  · exact sameOutsideTables_refl s

theorem mapWindows_sameOutsideTables (s : State) : s.sameOutsideTables s.mapWindows :=
  sameOutsideTables_trans (fillEntries_sameOutsideTables ..) (fillEntries_sameOutsideTables ..)

theorem mapNametables_sameOutsideTables (s : State) : s.sameOutsideTables s.mapNametables := by
  unfold State.mapNametables
  split <;> exact fillEntries_sameOutsideTables ..

theorem mapWrap_sameOutsideTables (s : State) (w : Wrap) : s.sameOutsideTables (s.mapWrap w) :=
  foldl_sameOutsideTables (fun s a => wrapRead_sameOutsideTables s _ (BitVec.ofNat 16 a) _ _) _ s

/-- The state in which `APPLYMAP` fills the tables: no trampoline is left, and a first run has set the initial bank
registers (R302 steps 1 and 2). -/
def mapStart (s : State) : State :=
  if s.phase = .loaded then s.dropTramps.initWindows else s.dropTramps

/-- The state after the entries of the windows and the nametables, before the trampolines (R302 steps 3 to 6). -/
def mapEntries (s : State) : State := (mapStart s).mapPrgRam.mapWindows.mapNametables

theorem applyMap_eq (s : State) :
    s.applyMap = { (mapEntries s).params.variant.wraps.foldl State.mapWrap (mapEntries s) with phase := .mapped } :=
  rfl

theorem mapStart_changes (s : State) :
    ∃ p c, mapStart s = { s.dropTramps with prgBank := p, chrBank := c } := by
  unfold mapStart
  split
  · exact initWindows_changes s.dropTramps
  · exact ⟨s.prgBank, s.chrBank, rfl⟩

theorem mapStart_params (s : State) : (mapStart s).params = s.params := by
  obtain ⟨p, c, h⟩ := mapStart_changes s
  rw [h]
  rfl

theorem mapEntries_sameOutsideTables (s : State) : (mapStart s).sameOutsideTables (mapEntries s) :=
  sameOutsideTables_trans (sameOutsideTables_trans (mapPrgRam_sameOutsideTables _) (mapWindows_sameOutsideTables _))
    (mapNametables_sameOutsideTables _)

theorem mapEntries_params (s : State) : (mapEntries s).params = s.params :=
  (params_of_sameOutsideTables (mapEntries_sameOutsideTables s)).trans (mapStart_params s)

/-- `APPLYMAP` changes the tables, the records, the phase, and the bank registers as `mapStart` has them. -/
theorem applyMap_changes (s : State) :
    ∃ cr cw pr pw recs, s.applyMap = { s with
      cpu := { s.cpu with rd := cr, wr := cw }, ppu := { s.ppu with rd := pr, wr := pw }, tramp := recs
      prgBank := (mapStart s).prgBank, chrBank := (mapStart s).chrBank, phase := .mapped } := by
  obtain ⟨p, c, hstart⟩ := mapStart_changes s
  obtain ⟨cr, cw, pr, pw, recs, h⟩ := exists_of_sameOutsideTables (sameOutsideTables_trans
    (mapEntries_sameOutsideTables s) (foldl_sameOutsideTables mapWrap_sameOutsideTables
      (mapEntries s).params.variant.wraps (mapEntries s)))
  exact ⟨cr, cw, pr, pw, recs, by rw [applyMap_eq, h, hstart]; rfl⟩

theorem installs_sameOutsideTables {i : Instr} {s t : State} (h : Installs s i t) : s.sameOutsideTables t := by
  cases h with
  | setrd sp a fn p _ => exact putReadEntry_sameOutsideTables ..
  | setwr sp a fn p _ => exact putWriteEntry_sameOutsideTables ..
  | wraprd sp a se p _ => exact wrapRead_sameOutsideTables ..
  | wrapwr sp a se p _ => exact wrapWrite_sameOutsideTables ..
  | applymirror mode => exact fillEntries_sameOutsideTables ..
  | applyctlmirror => exact fillEntries_sameOutsideTables ..

/-! ### Effects of the kinds -/

theorem writeChr_changes (s : State) (slot : Slot) (n : Byte) (p : Addr) (v : Byte) :
    ∃ m, s.writeChr slot n p v = { s with chrRam := m } := by
  unfold State.writeChr
  dsimp only
  split <;> exact ⟨_, rfl⟩

theorem kindWrStore_changes (sp : Space) (p : Addr) (v : Byte) (s : State) :
    ∃ st, kindWrStore sp p v s = s.setBus sp { s.bus sp with store := st } := by
  unfold kindWrStore
  split
  · exact ⟨_, rfl⟩
  · exact ⟨(s.bus sp).store, by cases sp <;> rfl⟩

theorem kindWrShift_changes (p : Addr) (v : Byte) (s : State) :
    ∃ pb cb m fam, kindWrShift p v s
      = { s with prgBank := pb, chrBank := cb, mirrorMode := m, family := fam } := by
  unfold kindWrShift
  split
  · dsimp only
    split
    · obtain ⟨pb, cb, m, h⟩ := serialRecompute_changes (s.setFamily (.serial _)) _
      exact ⟨pb, cb, m, _, h⟩
    · split
      · obtain ⟨pb, cb, m, h⟩ := serialRecompute_changes (s.setFamily (.serial _)) _
        exact ⟨pb, cb, m, _, h⟩
      · exact ⟨_, _, _, _, rfl⟩
  all_goals exact ⟨_, _, _, _, rfl⟩

theorem kindWrSelect_changes (v : Byte) (s : State) :
    ∃ pb cb fam, kindWrSelect v s = { s with prgBank := pb, chrBank := cb, family := fam } := by
  unfold kindWrSelect
  split
  · obtain ⟨pb, cb, h⟩ := indexedRecompute_changes (s.setFamily (.indexed _)) _
    exact ⟨pb, cb, _, h⟩
  all_goals exact ⟨_, _, _, rfl⟩

theorem kindWrData_changes (v : Byte) (s : State) :
    ∃ pb cb fam, kindWrData v s = { s with prgBank := pb, chrBank := cb, family := fam } := by
  unfold kindWrData
  split
  · obtain ⟨pb, cb, h⟩ := indexedRecompute_changes (s.setFamily (.indexed _)) _
    exact ⟨pb, cb, _, h⟩
  all_goals exact ⟨_, _, _, rfl⟩

theorem kindWrDirect_changes (toChr : Bool) (slot : Slot) (n mask v : Byte) (s : State) :
    ∃ pb cb, kindWrDirect toChr slot n mask v s = { s with prgBank := pb, chrBank := cb } := by
  unfold kindWrDirect
  split <;> exact ⟨_, _, rfl⟩

theorem kindWrMirror_changes (style v : Byte) (s : State) :
    ∃ m, kindWrMirror style v s = { s with mirrorMode := m } := by
  unfold kindWrMirror
  split
  · split <;> exact ⟨_, rfl⟩
  · exact ⟨_, rfl⟩

/-! ### The frame -/

/-- The groups of state that a kind may write are kept by every instruction not named for them: the bank registers
(R26), the mirror mode (R28), the counter (R29 to R32), the family state (R35 to R38), the line and the sink's calls
(R33), the byte stores (R23) and CHR-RAM (R39). -/
structure KindFrame (i : Instr) (s t : State) : Prop where
  banks : mayWriteBanks i = false → t.prgBank = s.prgBank ∧ t.chrBank = s.chrBank
  mirror : mayWriteMirror i = false → t.mirrorMode = s.mirrorMode
  irq : mayWriteIrq i = false → t.irq = s.irq
  family : mayWriteFamily i = false → t.family = s.family
  line : mayWriteLine i = false → t.irqOut = s.irqOut ∧ t.calls = s.calls
  stores : mayWriteStores i = false → ∀ sp, (t.bus sp).store = (s.bus sp).store
  chrRam : mayWriteChrRam i = false → t.chrRam = s.chrRam

/-- And so is everything else: the tables and the records (R21, R34), the phase (R40), the ROM (R25), the last bus
values (R24), the response (R90), the draws (R127); the parameters, the wired inputs and the port by every one. -/
structure Frame (i : Instr) (s t : State) : Prop extends KindFrame i s t where
  tables : mayWriteTables i = false →
    t.tramp = s.tramp ∧ ∀ sp, (t.bus sp).rd = (s.bus sp).rd ∧ (t.bus sp).wr = (s.bus sp).wr
  phase : mayWritePhase i = false → t.phase = s.phase
  rom : i ≠ .init → t.rom = s.rom
  last : ∀ sp, accessSpace i ≠ some sp → (t.bus sp).last = (s.bus sp).last
  response : mayRespond i = false → t.resp = s.resp ∧ t.answers = s.answers
  draws : mayDraw i = false → t.draws = s.draws
  inputs : t.params = s.params ∧ t.wires = s.wires ∧ t.port = s.port

theorem kindFrame_refl (i : Instr) (s : State) : KindFrame i s s :=
  ⟨fun _ => ⟨rfl, rfl⟩, fun _ => rfl, fun _ => rfl, fun _ => rfl, fun _ => ⟨rfl, rfl⟩, fun _ _ => rfl, fun _ => rfl⟩

/-- A kind with a counter write keeps the other groups. -/
theorem kindFrame_setIrq {i : Instr} (hi : mayWriteIrq i = true) (s : State) (r : IrqState) :
    KindFrame i s (s.setIrq r) :=
  { kindFrame_refl i s with irq := fun h => absurd (hi.symm.trans h) nofun, stores := fun _ _ => by simp }

/-- A kind that may raise or clear the line beside its counter keeps the other groups. -/
theorem kindFrame_counter {i : Instr} (hirq : mayWriteIrq i = true) (hline : mayWriteLine i = true) (s : State)
    (irq : IrqState) (out : Bool) (calls : List SinkCall) :
    KindFrame i s { s with irq := irq, irqOut := out, calls := calls } :=
  { kindFrame_refl i s with
    irq := fun h => absurd (hirq.symm.trans h) nofun
    line := fun h => absurd (hline.symm.trans h) nofun }

/-- A kind that stores a byte of a byte store keeps the other groups. -/
theorem kindFrame_store {i : Instr} (hi : mayWriteStores i = true) (s : State) (sp : Space) (m : Memory) :
    KindFrame i s (s.setBus sp { s.bus sp with store := m }) :=
  ⟨fun _ => by simp, fun _ => by simp, fun _ => by simp, fun _ => by simp, fun _ => by simp,
    fun h => absurd (hi.symm.trans h) nofun, fun _ => by simp⟩

theorem frame_refl (i : Instr) (s : State) : Frame i s s :=
  ⟨kindFrame_refl i s, fun _ => ⟨rfl, fun _ => ⟨rfl, rfl⟩⟩, fun _ => rfl, fun _ => rfl, fun _ _ => rfl,
    fun _ => ⟨rfl, rfl⟩, fun _ => rfl, rfl, rfl, rfl⟩

/-- A write kind keeps every group that its instruction is not named for. -/
theorem runWrite_kindFrame (c : WriteCall) (k : Nat) (fn : WriteKind) (sp : Space) (p : Addr) (v : Byte) (s : State) :
    KindFrame (writeInstr c k fn) s (runWrite fn sp p v s) := by
  cases fn
  case ignore | external | tramp => exact kindFrame_refl _ s
  case store =>
    obtain ⟨st, h⟩ := kindWrStore_changes sp p v s
    rw [show runWrite .store sp p v s = _ from h]
    exact kindFrame_store rfl s sp st
  case ntDyn => exact kindFrame_store rfl s sp _
  case chr slot n =>
    obtain ⟨m, h⟩ := writeChr_changes s slot n p v
    rw [show runWrite (.chr slot n) sp p v s = _ from h]
    exact { kindFrame_refl _ s with chrRam := nofun }
  case chrA12 slot n =>
    obtain ⟨irq, out, calls, hs⟩ := a12Sample_changes s p
    obtain ⟨m, h⟩ := writeChr_changes (s.a12Sample p) slot n p v
    rw [show runWrite (.chrA12 slot n) sp p v s = _ from h, hs]
    exact { kindFrame_refl _ s with irq := nofun, line := nofun, chrRam := nofun }
  case direct toChr slot n mask =>
    obtain ⟨pb, cb, h⟩ := kindWrDirect_changes toChr slot n mask v s
    rw [show runWrite (.direct toChr slot n mask) sp p v s = _ from h]
    exact { kindFrame_refl _ s with banks := nofun }
  case shift =>
    obtain ⟨pb, cb, m, fam, h⟩ := kindWrShift_changes p v s
    rw [show runWrite .shift sp p v s = _ from h]
    exact { kindFrame_refl _ s with banks := nofun, mirror := nofun, family := nofun }
  case select =>
    obtain ⟨pb, cb, fam, h⟩ := kindWrSelect_changes v s
    rw [show runWrite .select sp p v s = _ from h]
    exact { kindFrame_refl _ s with banks := nofun, family := nofun }
  case data =>
    obtain ⟨pb, cb, fam, h⟩ := kindWrData_changes v s
    rw [show runWrite .data sp p v s = _ from h]
    exact { kindFrame_refl _ s with banks := nofun, family := nofun }
  case mirror style =>
    obtain ⟨m, h⟩ := kindWrMirror_changes style v s
    rw [show runWrite (.mirror style) sp p v s = _ from h]
    exact { kindFrame_refl _ s with mirror := nofun }
  case m3Latch | m3Reload | m3Enable | vrcLatch | vrcLatchLo | vrcLatchHi | vrcCtrl =>
    simp only [runWrite, kindWrM3Latch, kindWrM3Reload, kindWrM3Enable, kindWrVrcLatch, kindWrVrcLatchLo,
      kindWrVrcLatchHi, kindWrVrcCtrl]
    split <;> exact kindFrame_setIrq rfl s _
  case m3Disable | vrcAck =>
    simp only [runWrite, kindWrM3Disable, kindWrVrcAck]
    split <;> exact kindFrame_counter rfl rfl s _ _ _

/-- A read kind other than the two named changes no state. -/
theorem runRead_state {fn : ReadKind} (h1 : fn ≠ .external) (h2 : ∀ slot n, fn ≠ .chrA12 slot n) (sp : Space)
    (p : Addr) (out : Byte) (s : State) : (runRead fn sp p out s).1 = s := by
  cases fn
  case external => exact absurd rfl h1
  case chrA12 slot n => exact absurd rfl (h2 slot n)
  case chrLatched w a n b =>
    simp only [runRead, kindRdChrLatched]
    split
    · split <;> rfl
    all_goals rfl
  all_goals rfl

/-- A read kind keeps every group that its instruction is not named for, and the draws unless it takes one. -/
theorem runRead_kindFrame (c : ReadCall) (k : Nat) (fn : ReadKind) (sp : Space) (p : Addr) (out : Byte) (s : State) :
    KindFrame (readInstr c k fn) s (runRead fn sp p out s).1
    ∧ (mayDraw (readInstr c k fn) = false → (runRead fn sp p out s).1.draws = s.draws) := by
  by_cases h1 : fn = .external
  · subst h1
    exact ⟨{ kindFrame_refl _ s with }, nofun⟩
  · by_cases h2 : ∃ slot n, fn = .chrA12 slot n
    · obtain ⟨slot, n, rfl⟩ := h2
      obtain ⟨irq, calls, draws, h⟩ := a12Sample_changes s p
      rw [show (runRead (.chrA12 slot n) sp p out s).1 = _ from h]
      exact ⟨kindFrame_counter rfl rfl s _ _ _, fun _ => rfl⟩
    · rw [runRead_state h1 fun slot n h => h2 ⟨slot, n, h⟩]
      exact ⟨kindFrame_refl _ s, fun _ => rfl⟩

/-- A read kind as an instruction is an access of its bus that answers. -/
theorem accessSpace_readInstr (c : ReadCall) (k : Nat) (fn : ReadKind) :
    accessSpace (readInstr c k fn) = some c.sp ∧ mayRespond (readInstr c k fn) = true := by
  cases fn <;> exact ⟨rfl, rfl⟩

theorem accessSpace_writeInstr (c : WriteCall) (k : Nat) (fn : WriteKind) :
    accessSpace (writeInstr c k fn) = some c.sp := by
  cases fn <;> rfl

/-- What a read can change, whatever side effects and kind it reaches (R64). -/
theorem readThrough_changes (ses : List SideEffect) (fn : ReadKind) (sp : Space) (p : Addr) (s : State) :
    ∃ irq out calls draws fam v, (s.runSideEffects ses).readThrough sp (runRead fn sp p)
      = ({ s with irq := irq, irqOut := out, calls := calls, draws := draws, family := fam }.setLast sp v).respond
          (.byte v) := by
  generalize hu : s.runSideEffects ses = u
  obtain ⟨irq, out, calls, draws, h⟩ := runRead_changes fn sp p (u.bus sp).last u
  refine ⟨irq, out, calls, draws, u.family, (runRead fn sp p (u.bus sp).last u).2, ?_⟩
  rw [runSideEffects_eq] at hu
  simp only [State.readThrough, h]
  rw [← hu]
  rfl

/-- What a write can change, whatever side effects and kind it reaches (R64). -/
theorem writeThrough_changes (ses : List SideEffect) (fn : WriteKind) (c : WriteCall) (s : State) :
    ∃ st pb cb m irq out calls fam ram,
      runWrite fn c.sp c.param c.v ((s.setLast c.sp c.v).runSideEffects ses)
      = { s.setBus c.sp { s.bus c.sp with store := st, last := c.v } with
          prgBank := pb, chrBank := cb, mirrorMode := m, irq := irq, irqOut := out, calls := calls
          family := fam, chrRam := ram } := by
  obtain ⟨st, pb, cb, m, irq, out, calls, fam, ram, h⟩ :=
    runWrite_changes fn c.sp c.param c.v ((s.setLast c.sp c.v).runSideEffects ses)
  refine ⟨st, pb, cb, m, irq, out, calls, fam, ram, ?_⟩
  rw [h, runSideEffects_eq]
  cases c.sp <;> rfl

/-- The last bus value and the response of an access are outside the groups of its kind. -/
theorem kindFrame_readThrough {i : Instr} {s t : State} (h : KindFrame i s t) (sp : Space) (v : Byte) (r : Answer) :
    KindFrame i s ((t.setLast sp v).respond r) :=
  ⟨fun hi => by simpa using h.banks hi, fun hi => by simpa using h.mirror hi, fun hi => by simpa using h.irq hi,
    fun hi => by simpa using h.family hi, fun hi => by simpa using h.line hi,
    fun hi sp' => by rw [respond_bus, setLast_store]; exact h.stores hi sp', fun hi => by simpa using h.chrRam hi⟩

theorem kindFrame_of_setLast {i : Instr} {s t : State} {sp : Space} {v : Byte} (h : KindFrame i (s.setLast sp v) t) :
    KindFrame i s t :=
  ⟨fun hi => by simpa using h.banks hi, fun hi => by simpa using h.mirror hi, fun hi => by simpa using h.irq hi,
    fun hi => by simpa using h.family hi, fun hi => by simpa using h.line hi,
    fun hi sp' => by rw [h.stores hi sp', setLast_store], fun hi => by simpa using h.chrRam hi⟩

theorem setBus_of_ne {sp sp' : Space} (h : some sp ≠ some sp') (s : State) (b : Bus) :
    (s.setBus sp b).bus sp' = s.bus sp' := by
  rw [setBus_bus, if_neg]
  rintro rfl
  exact h rfl

/-- The part of a read's frame that holds of whatever it reaches: its instruction is a read of the bus. -/
theorem read_frame {i : Instr} {sp : Space} (hsp : accessSpace i = some sp) (hresp : mayRespond i = true)
    {ses : List SideEffect} {fn : ReadKind} {p : Addr} {s : State}
    (hkind : KindFrame i s ((s.runSideEffects ses).readThrough sp (runRead fn sp p)))
    (hdraws : mayDraw i = false → ((s.runSideEffects ses).readThrough sp (runRead fn sp p)).draws = s.draws) :
    Frame i s ((s.runSideEffects ses).readThrough sp (runRead fn sp p)) := by
  obtain ⟨irq, out, calls, draws, fam, v, h⟩ := readThrough_changes ses fn sp p s
  rw [h] at hkind hdraws ⊢
  refine ⟨hkind, fun _ => ⟨by simp, fun sp' => ?_⟩, fun _ => by simp, fun _ => by simp, fun sp' hne => ?_,
    fun hf => absurd (hresp.symm.trans hf) nofun, hdraws, by simp⟩
  · exact ⟨setLast_rd _ sp v sp', setLast_wr _ sp v sp'⟩
  · rw [respond_bus, State.setLast, setBus_of_ne (hsp ▸ hne)]
    rfl

theorem write_frame {i : Instr} {c : WriteCall} (hsp : accessSpace i = some c.sp) {ses : List SideEffect}
    {fn : WriteKind} {s : State}
    (hkind : KindFrame i s (runWrite fn c.sp c.param c.v ((s.setLast c.sp c.v).runSideEffects ses))) :
    Frame i s (runWrite fn c.sp c.param c.v ((s.setLast c.sp c.v).runSideEffects ses)) := by
  obtain ⟨st, pb, cb, m, irq, out, calls, fam, ram, h⟩ := writeThrough_changes ses fn c s
  rw [h] at hkind ⊢
  refine ⟨hkind, fun _ => ⟨by simp, fun sp' => ?_⟩, fun _ => by simp, fun _ => by simp, fun sp' hne => ?_,
    fun _ => by simp, fun _ => by simp, by simp⟩
  · cases c.sp <;> cases sp' <;> exact ⟨rfl, rfl⟩
  · exact congrArg Bus.last (setBus_of_ne (hsp ▸ hne) s _)

/-- A read through a table entry or a trampoline can change the counter, the line and the family state. -/
theorem readThrough_kindFrame {i : Instr} (hirq : mayWriteIrq i = true) (hfamily : mayWriteFamily i = true)
    (hline : mayWriteLine i = true) (ses : List SideEffect) (fn : ReadKind) (sp : Space) (p : Addr) (s : State) :
    KindFrame i s ((s.runSideEffects ses).readThrough sp (runRead fn sp p)) := by
  obtain ⟨irq, out, calls, draws, fam, v, h⟩ := readThrough_changes ses fn sp p s
  rw [h]
  exact ⟨fun _ => by simp, fun _ => by simp, fun hf => absurd (hirq.symm.trans hf) nofun,
    fun hf => absurd (hfamily.symm.trans hf) nofun, fun hf => absurd (hline.symm.trans hf) nofun,
    fun _ sp' => setLast_store _ sp v sp', fun _ => by simp⟩

/-- An instruction that changes registers of the mapper alone keeps the rest. -/
theorem frame_of_registers {i : Instr} {s : State} {pb cb : SlotFile} {m : MirrorMode} {irq : IrqState} {out : Bool}
    {calls : List SinkCall} {fam : FamilyState}
    (hkind : KindFrame i s { s with
      prgBank := pb, chrBank := cb, mirrorMode := m, irq := irq, irqOut := out, calls := calls, family := fam }) :
    Frame i s { s with
      prgBank := pb, chrBank := cb, mirrorMode := m, irq := irq, irqOut := out, calls := calls, family := fam } :=
  { frame_refl i s with toKindFrame := hkind }

/-- Every instruction keeps what it is not named for. -/
theorem completes_frame {i : Instr} {s t : State} (h : Completes s i t) : Frame i s t := by
  cases h with
  | init =>
    rw [initWithRom_eq]
    exact { frame_refl _ s with
      banks := nofun, mirror := nofun, irq := nofun, family := nofun, line := nofun, tables := nofun, phase := nofun
      rom := fun h => absurd rfl h
      stores := fun _ sp => by cases sp <;> rfl
      last := fun sp _ => by cases sp <;> rfl }
  | applymap =>
    obtain ⟨cr, cw, pr, pw, recs, h⟩ := applyMap_changes s
    rw [h]
    exact { frame_refl _ s with
      banks := nofun, tables := nofun, phase := nofun
      stores := fun _ sp => by cases sp <;> rfl
      last := fun sp _ => by cases sp <;> rfl }
  | teardown =>
    exact { frame_refl _ s with
      line := nofun, tables := nofun, phase := nofun
      stores := fun _ sp => by cases sp <;> rfl
      last := fun sp _ => by cases sp <;> rfl }
  | tick =>
    obtain ⟨irq, out, calls, h⟩ := tickIrq_changes s
    rw [h]
    exact frame_of_registers (kindFrame_counter rfl rfl s irq out calls)
  | reset =>
    obtain ⟨p, c, h⟩ := resetMapper_changes s
    rw [h]
    exact frame_of_registers { kindFrame_refl _ s with
      banks := nofun, mirror := nofun, irq := nofun, family := nofun, line := nofun }
  | sanitize =>
    exact frame_of_registers { kindFrame_refl _ s with banks := nofun }
  | seLatch w st =>
    rw [runSideEffect_eq]
    exact frame_of_registers { kindFrame_refl _ s with family := nofun }
  | answers i r h =>
    have hi : mayRespond i = true := by cases h <;> rfl
    exact { frame_refl i s with response := fun hf => absurd (hi.symm.trans hf) nofun }
  | installs _ _ h =>
    have htables : mayWriteTables i = true := by cases h <;> rfl
    obtain ⟨cr, cw, pr, pw, recs, rfl⟩ := exists_of_sameOutsideTables (installs_sameOutsideTables h)
    exact { frame_refl i s with
      tables := fun hf => absurd (htables.symm.trans hf) nofun
      stores := fun _ sp => by cases sp <;> rfl
      last := fun sp _ => by cases sp <;> rfl }
  | read _ ses fn c _ hi =>
    rcases hi with ⟨a, rfl⟩ | ⟨p, k, se, rfl⟩ | ⟨k, rfl, rfl⟩
    · exact read_frame rfl rfl (readThrough_kindFrame rfl rfl rfl ..) nofun
    · exact read_frame rfl rfl (readThrough_kindFrame rfl rfl rfl ..) nofun
    · obtain ⟨hsp, hresp⟩ := accessSpace_readInstr c k fn
      obtain ⟨hkind, hdraws⟩ := runRead_kindFrame c k fn c.sp c.param (s.bus c.sp).last s
      exact read_frame hsp hresp (kindFrame_readThrough hkind _ _ _) fun hd => by
        simpa [State.readThrough, State.runSideEffects] using hdraws hd
  | write _ ses fn c _ hi =>
    rcases hi with ⟨a, rfl⟩ | ⟨p, k, se, rfl⟩ | ⟨k, rfl, rfl⟩
    · exact write_frame rfl ⟨nofun, nofun, nofun, nofun, nofun, nofun, nofun⟩
    · exact write_frame rfl ⟨nofun, nofun, nofun, nofun, nofun, nofun, nofun⟩
    · exact write_frame (accessSpace_writeInstr c k fn)
        (kindFrame_of_setLast (runWrite_kindFrame c k fn c.sp c.param c.v (s.setLast c.sp c.v)))

/-- No read is named for the tables, the banks or a memory. -/
theorem runsRead_mayWrite {i : Instr} {c : ReadCall} {fn : ReadKind} {ses : List SideEffect}
    (h : runsRead i c fn ses) : mayWriteTables i = false ∧ mayWriteBanks i = false
      ∧ mayWriteStores i = false ∧ mayWriteChrRam i = false := by
  rcases h with ⟨a, rfl⟩ | ⟨p, k, se, rfl⟩ | ⟨k, rfl, rfl⟩
  · exact ⟨rfl, rfl, rfl, rfl⟩
  · exact ⟨rfl, rfl, rfl, rfl⟩
  · cases fn <;> exact ⟨rfl, rfl, rfl, rfl⟩

/-- No write is named for the tables. -/
theorem runsWrite_mayWrite {i : Instr} {c : WriteCall} {fn : WriteKind} {ses : List SideEffect}
    (h : runsWrite i c fn ses) : mayWriteTables i = false := by
  rcases h with ⟨a, rfl⟩ | ⟨p, k, se, rfl⟩ | ⟨k, rfl, rfl⟩
  · rfl
  · rfl
  · cases fn <;> rfl

/-- The tables and the records: as before, or what one of the commands named for them makes of them. -/
theorem tables_cases {i : Instr} {s t : State} (h : Completes s i t) :
    (t.tramp = s.tramp ∧ ∀ sp, (t.bus sp).rd = (s.bus sp).rd ∧ (t.bus sp).wr = (s.bus sp).wr)
    ∨ t = s.initWithRom ∨ t = s.applyMap ∨ t = { s.releaseEntries.irqClear with phase := .dead }
    ∨ Installs s i t := by
  have hkept := (completes_frame h).tables
  cases h with
  | init => exact .inr (.inl rfl)
  | applymap => exact .inr (.inr (.inl rfl))
  | teardown => exact .inr (.inr (.inr (.inl rfl)))
  | installs _ _ h => exact .inr (.inr (.inr (.inr h)))
  | answers _ _ h => exact .inl (hkept (by cases h <;> rfl))
  | read _ _ _ _ _ hi => exact .inl (hkept (runsRead_mayWrite hi).1)
  | write _ _ _ _ _ hi => exact .inl (hkept (runsWrite_mayWrite hi))
  | _ => exact .inl (hkept rfl)

/-! ### O51, O53, O54 -/

/-- Settles O51: the part of the frame that speaks of the tables and the records. -/
theorem tablesFrame : Obligations.TablesFrame :=
  fun _ _ _ hi h => (completes_frame (exec_completes h)).tables hi

/-- Settles O53: the parts of the frame that speak of the mapper's registers. -/
theorem registersFrame : Obligations.RegistersFrame := by
  intro i s t h
  have hf := completes_frame (exec_completes h)
  exact ⟨hf.banks, hf.mirror, hf.irq, hf.family⟩

/-- Settles O54: the remaining parts of the frame. -/
theorem otherStateFrame : Obligations.OtherStateFrame := by
  intro i s t h
  have hf := completes_frame (exec_completes h)
  exact ⟨hf.line, hf.phase, hf.rom, hf.last, hf.response, hf.draws, hf.inputs⟩

/-! ### The byte a write stores (O52) -/

/-- A write kind leaves every byte of the byte stores but its own as it was (R131, R164). -/
theorem storeByte_runWrite {fn : WriteKind} {sp : Space} {p : Addr} {v : Byte} {s : State} {sp' : Space} {a : Nat}
    (hstore : fn = .store → p.toNat < spaceSize sp → ¬ (sp' = sp ∧ a = p.toNat))
    (hdyn : fn = .ntDyn → ¬ (sp' = sp ∧ a = (mirrorAddress p s.mirrorMode).toNat)) :
    (runWrite fn sp p v s).storeByte sp' a = s.storeByte sp' a := by
  cases fn
  case store =>
    simp only [runWrite, kindWrStore]
    split
    · next hlt => rw [storeByte_putStore, if_neg (hstore rfl hlt)]
    · rfl
  case ntDyn => simp only [runWrite, kindWrNtDyn, storeByte_putStore, if_neg (hdyn rfl)]
  case tramp => rfl
  all_goals exact storeByte_congr ((runWrite_kindFrame ⟨sp, p, v⟩ 0 _ sp p v s).stores rfl sp') a

theorem writeChr_eq (s : State) (slot : Slot) (n : Byte) (p : Addr) (v : Byte) :
    s.writeChr slot n p v = ((chrRamIndex s slot n p).map (s.putChrRam · v)).getD s := by
  simp only [State.writeChr, chrRamIndex]
  split <;> rfl

theorem chrRamByte_writeChr {s : State} {slot : Slot} {n : Byte} {p : Addr} {v : Byte} {a : Nat}
    (h : chrRamIndex s slot n p ≠ some a) : (s.writeChr slot n p v).chrRamByte a = s.chrRamByte a := by
  rw [writeChr_eq]
  cases hi : chrRamIndex s slot n p with
  | none => rfl
  | some i =>
    rw [Option.map_some, Option.getD_some, chrRamByte_putChrRam, if_neg]
    rintro rfl
    exact h hi

/-- A write kind leaves every byte of CHR-RAM but its own as it was (R148, R201). -/
theorem chrRamByte_runWrite {fn : WriteKind} {sp : Space} {p : Addr} {v : Byte} {s : State} {a : Nat}
    (hchr : ∀ slot n, fn = .chr slot n ∨ fn = .chrA12 slot n → chrRamIndex s slot n p ≠ some a) :
    (runWrite fn sp p v s).chrRamByte a = s.chrRamByte a := by
  cases fn
  case chr slot n => exact chrRamByte_writeChr (hchr slot n (.inl rfl))
  case chrA12 slot n =>
    obtain ⟨irq, out, calls, h⟩ := a12Sample_changes s p
    simp only [runWrite, kindWrChrA12, kindWrChr, h]
    exact chrRamByte_writeChr (hchr slot n (.inr rfl))
  case tramp => rfl
  all_goals exact chrRamByte_congr ((runWrite_kindFrame ⟨sp, p, v⟩ 0 _ sp p v s).chrRam rfl) a

/-- Only a write may store. -/
theorem write_of_mayStore {i : Instr} {s t : State} (h : Completes s i t)
    (hm : (mayWriteStores i || mayWriteChrRam i) = true) :
    ∃ (ses : List SideEffect) (fn : WriteKind) (c : WriteCall), writeReached s i = some (c.sp, fn, c.param)
      ∧ t = runWrite fn c.sp c.param c.v ((s.setLast c.sp c.v).runSideEffects ses) := by
  cases h with
  | write _ ses fn c hw _ => exact ⟨ses, fn, c, hw, rfl⟩
  | read _ _ _ _ _ hi =>
    obtain ⟨-, -, hstores, hram⟩ := runsRead_mayWrite hi
    rw [hstores, hram] at hm
    nomatch hm
  | answers _ _ h => cases h <;> nomatch hm
  | installs _ _ h => cases h <;> nomatch hm
  | _ => nomatch hm

/-- Settles O52: only a write stores, and it stores to the byte its kind names, in a state with the mirror mode and the
bank registers the instruction started from. -/
theorem memoryFrame : Obligations.MemoryFrame := by
  intro i s t h
  have hc := exec_completes h
  cases hm : mayWriteStores i || mayWriteChrRam i with
  | false =>
    obtain ⟨hstores, hram⟩ := Bool.or_eq_false_iff.mp hm
    have hf := completes_frame hc
    exact ⟨fun sp a _ => storeByte_congr (hf.stores hstores sp) a, fun a _ => chrRamByte_congr (hf.chrRam hram) a⟩
  | true =>
    obtain ⟨ses, fn, c, hw, rfl⟩ := write_of_mayStore hc hm
    rw [runSideEffects_eq]
    generalize ((s.setLast c.sp c.v).runSideEffects ses).family = fam
    refine ⟨fun sp a hne => ?_, fun a hne => ?_⟩
    · simp only [storeTarget, hw] at hne
      rw [storeByte_runWrite]
      · exact storeByte_congr (by rw [setFamily_bus, setLast_store]) a
      · rintro rfl hlt ⟨rfl, rfl⟩
        simp [hlt] at hne
      · rintro rfl ⟨rfl, rfl⟩
        simp at hne
    · simp only [chrRamTarget, hw] at hne
      rw [chrRamByte_runWrite]
      · exact chrRamByte_congr (by simp) a
      · have hindex : ∀ slot n, chrRamIndex ((s.setLast c.sp c.v).setFamily fam) slot n c.param
            = chrRamIndex s slot n c.param := fun _ _ => by cases c.sp <;> rfl
        rintro slot n (rfl | rfl)
        · rwa [hindex]
        · rwa [hindex]

end Sys2Proof.Proofs
end

section
/-! SUPPORT. Canonical data (spec/10_state.md R21, R23, R39): one rule per operation on the tables and on the memories,
and O55 from them. -/

namespace Sys2Proof.Proofs

open Sys2Proof Sys2Proof.Machine Sys2Proof.Laws

/-! ### The dispatch tables -/

theorem entryIndex_lt (sp : Space) (a : Addr) : entryIndex sp a < spaceSize sp := by
  cases sp
  · exact a.isLt
  · exact Nat.mod_lt _ (by decide)

theorem tablesWf_congr {s t : State} (h : ∀ sp, (t.bus sp).rd = (s.bus sp).rd ∧ (t.bus sp).wr = (s.bus sp).wr)
    (hs : s.tablesWf) : t.tablesWf := by
  intro sp
  rw [(h sp).1, (h sp).2]
  exact hs sp

section Tables

variable {s : State} (hs : s.tablesWf)
include hs

theorem putReadEntry_tablesWf (sp : Space) (a : Addr) (h : ReadRef) : (s.putReadEntry sp a h).tablesWf := by
  intro sp'
  rw [putReadEntry_bus]
  split
  · next hsp => subst hsp; exact ⟨tablePut_wf (hs sp').1 (entryIndex_lt sp' a) h, (hs sp').2⟩
  · exact hs sp'

theorem putWriteEntry_tablesWf (sp : Space) (a : Addr) (h : WriteRef) : (s.putWriteEntry sp a h).tablesWf := by
  intro sp'
  rw [putWriteEntry_bus]
  split
  · next hsp => subst hsp; exact ⟨(hs sp').1, tablePut_wf (hs sp').2 (entryIndex_lt sp' a) h⟩
  · exact hs sp'

theorem fillEntries_tablesWf {sp : Space} {lo n : Nat} (hn : lo + n ≤ spaceSize sp) (rd : Nat → ReadRef)
    (wr : Nat → WriteRef) : (s.fillEntries sp lo n rd wr).tablesWf := by
  intro sp'
  rw [fillEntries_bus]
  split
  · next h => subst h; exact ⟨tableFill_wf (hs sp').1 hn rd, tableFill_wf (hs sp').2 hn wr⟩
  · exact hs sp'

theorem dropTramps_tablesWf : s.dropTramps.tablesWf := by
  intro sp
  rw [dropTramps_bus]
  exact ⟨filter_tableWf (hs sp).1 _, filter_tableWf (hs sp).2 _⟩

theorem releaseEntries_tablesWf : s.releaseEntries.tablesWf := by
  intro sp
  rw [releaseEntries_bus]
  exact ⟨filter_tableWf (hs sp).1 _, filter_tableWf (hs sp).2 _⟩

theorem wrapRead_tablesWf (sp : Space) (a : Addr) (se : SideEffect) (p : Addr) : (s.wrapRead sp a se p).tablesWf :=
  putReadEntry_tablesWf (s := s.addRecord _) hs sp a _

theorem wrapWrite_tablesWf (sp : Space) (a : Addr) (se : SideEffect) (p : Addr) : (s.wrapWrite sp a se p).tablesWf :=
  putWriteEntry_tablesWf (s := s.addRecord _) hs sp a _

theorem mapPrgRam_tablesWf : s.mapPrgRam.tablesWf := by
  unfold State.mapPrgRam
  split
  · exact fillEntries_tablesWf hs (by decide) _ _
  · exact hs

theorem mapWindows_tablesWf : s.mapWindows.tablesWf :=
  fillEntries_tablesWf (fillEntries_tablesWf hs (by decide) _ _) (by decide) _ _

theorem mapNametables_tablesWf : s.mapNametables.tablesWf := by
  unfold State.mapNametables
  split <;> exact fillEntries_tablesWf hs (by decide) _ _

theorem mapWrap_tablesWf (w : Wrap) : (s.mapWrap w).tablesWf :=
  List.foldlRecOn _ _ hs fun _ ht _ _ => wrapRead_tablesWf ht _ _ _ _

theorem mapStart_tablesWf : (mapStart s).tablesWf := by
  obtain ⟨p, c, h⟩ := mapStart_changes s
  rw [h]
  exact dropTramps_tablesWf hs

theorem applyMap_tablesWf : s.applyMap.tablesWf := by
  have hentries : (mapEntries s).tablesWf :=
    mapNametables_tablesWf (mapWindows_tablesWf (mapPrgRam_tablesWf (mapStart_tablesWf hs)))
  rw [applyMap_eq]
  exact List.foldlRecOn (motive := State.tablesWf) _ _ hentries fun _ ht w _ => mapWrap_tablesWf ht w

theorem installs_tablesWf {i : Instr} {t : State} (h : Installs s i t) : t.tablesWf := by
  cases h with
  | setrd => exact putReadEntry_tablesWf hs _ _ _
  | setwr => exact putWriteEntry_tablesWf hs _ _ _
  | wraprd => exact wrapRead_tablesWf hs _ _ _ _
  | wrapwr => exact wrapWrite_tablesWf hs _ _ _ _
  | applymirror | applyctlmirror => exact fillEntries_tablesWf hs (by decide) _ _

theorem completes_tablesWf {i : Instr} {t : State} (h : Completes s i t) : t.tablesWf := by
  rcases tables_cases h with ⟨_, hsame⟩ | rfl | rfl | rfl | h
  · exact tablesWf_congr hsame hs
  · rw [initWithRom_eq]
    exact releaseEntries_tablesWf hs
  · exact applyMap_tablesWf hs
  · exact releaseEntries_tablesWf hs
  · exact installs_tablesWf hs h

end Tables

/-! ### The memories -/

theorem memoriesWf_congr {s t : State} (hstore : ∀ sp, (t.bus sp).store = (s.bus sp).store)
    (hram : t.chrRam = s.chrRam) (hs : s.memoriesWf) : t.memoriesWf := by
  refine ⟨fun sp => ?_, ?_⟩
  · rw [hstore]; exact hs.1 sp
  · rw [hram]; exact hs.2

section Memories

variable {s : State} (hs : s.memoriesWf)
include hs

theorem putStore_memoriesWf {sp : Space} {a : Nat} (ha : a < spaceSize sp) (v : Byte) :
    (s.putStore sp a v).memoriesWf := by
  refine ⟨fun sp' => ?_, by rw [putStore_chrRam]; exact hs.2⟩
  rw [putStore_bus]
  split
  · next h => subst h; exact memPut_wf (hs.1 sp') ha v
  · exact hs.1 sp'

theorem writeChr_memoriesWf (slot : Slot) (n : Byte) (p : Addr) (v : Byte) : (s.writeChr slot n p v).memoriesWf := by
  simp only [State.writeChr]
  split
  · next h => exact ⟨hs.1, memPut_wf hs.2 h.2 v⟩
  · exact hs

/-- A byte a kind stores lies inside its memory (R131, R148, R164). -/
theorem runWrite_memoriesWf (fn : WriteKind) (sp : Space) (p : Addr) (v : Byte) :
    (runWrite fn sp p v s).memoriesWf := by
  cases fn
  case store =>
    simp only [runWrite, kindWrStore]
    split
    · next hlt => exact putStore_memoriesWf hs hlt v
    · exact hs
  case ntDyn =>
    have hlt : (mirrorAddress p s.mirrorMode).toNat < spaceSize sp :=
      Nat.lt_of_lt_of_le (mirrorAddress_lt p s.mirrorMode) (by cases sp <;> decide)
    exact putStore_memoriesWf hs hlt v
  case chr slot n => exact writeChr_memoriesWf hs slot n p v
  case chrA12 slot n =>
    obtain ⟨irq, out, calls, h⟩ := a12Sample_changes s p
    refine writeChr_memoriesWf ?_ slot n p v
    rw [h]
    exact hs
  case tramp => exact hs
  all_goals
    exact memoriesWf_congr ((runWrite_kindFrame ⟨sp, p, v⟩ 0 _ sp p v s).stores rfl)
      ((runWrite_kindFrame ⟨sp, p, v⟩ 0 _ sp p v s).chrRam rfl) hs

theorem completes_memoriesWf {i : Instr} {t : State} (h : Completes s i t) : t.memoriesWf := by
  cases hm : mayWriteStores i || mayWriteChrRam i with
  | false =>
    obtain ⟨hstores, hram⟩ := Bool.or_eq_false_iff.mp hm
    exact memoriesWf_congr ((completes_frame h).stores hstores) ((completes_frame h).chrRam hram) hs
  | true =>
    obtain ⟨ses, fn, c, _, rfl⟩ := write_of_mayStore h hm
    refine runWrite_memoriesWf ?_ fn c.sp c.param c.v
    rw [runSideEffects_eq]
    exact memoriesWf_congr (fun sp => by rw [setFamily_bus, setLast_store]) (by simp) hs

end Memories

/-- Settles O55: every rule above over one step. -/
theorem canonicalFormsAreKept : Obligations.CanonicalFormsAreKept :=
  fun _ _ hm ht => step_preserves (P := fun s => s.memoriesWf ∧ s.tablesWf) (fun _ _ hs => hs)
    (fun _ _ hs hc => ⟨completes_memoriesWf hs.1 hc, completes_tablesWf hs.2 hc⟩) ⟨hm, ht⟩

end Sys2Proof.Proofs
end

section
/-! SUPPORT. Legal kinds and bank registers in range (spec/10_state.md R27, spec/41_bank_registers.md R140 to R143):
what a valid record says of its windows and rows (spec/46_mapper_variants.md R271), one rule per operation, and O57
from them. -/

namespace Sys2Proof.Proofs

open Sys2Proof Sys2Proof.Machine Sys2Proof.Laws

/-! ### What a valid record says (R271) -/

theorem exists_log2_of_sizeOk {size : Nat} (h : sizeOk size = true) : ∃ n, 10 ≤ n ∧ n ≤ 15 ∧ size = 2 ^ n := by
  obtain ⟨n, hn, he⟩ := List.any_eq_true.mp h
  obtain ⟨hlo, hhi⟩ := List.mem_range'_1.mp hn
  exact ⟨n, hlo, Nat.lt_succ_iff.mp hhi, by simpa using he⟩

theorem log2Ok_log2Field {size : Nat} (h : sizeOk size = true) : log2Ok (log2Field size) = true := by
  obtain ⟨n, hlo, hhi, rfl⟩ := exists_log2_of_sizeOk h
  rw [log2Ok_eq, log2Field, Nat.log2_two_pow, BitVec.toNat_ofNat]
  exact decide_eq_true (by omega)

/-- The checks of a record that say something of one window or one row at a time. -/
theorem rows_of_variantValid {v : Variant} (hv : variantValid v = true) :
    (∀ w ∈ v.prgWindows, sizeOk w.size = true ∧ w.size = v.prgSanSize)
    ∧ (∀ w ∈ v.chrWindows, sizeOk w.size = true ∧ w.size = v.chrSanSize)
    ∧ (∀ e ∈ v.cpuWrites, e.kind.wellFormed = true)
    ∧ ∀ w ∈ v.wraps, w.se.wellFormed = true := by
  simp only [variantValid, windowOk, cpuWriteOk, wrapOk, Bool.and_eq_true, List.all_eq_true, beq_iff_eq] at hv
  obtain ⟨⟨⟨⟨⟨⟨⟨⟨hprg, hchr⟩, -⟩, -⟩, -⟩, -⟩, hcpu⟩, hwraps⟩, -⟩ := hv
  refine ⟨fun w hw => ?_, fun w hw => ?_, fun e he => ?_, fun w hw => ?_⟩
  · obtain ⟨⟨⟨⟨hsize, -⟩, -⟩, -⟩, hsan⟩ := hprg w hw
    exact ⟨hsize, hsan⟩
  · obtain ⟨⟨⟨⟨⟨hsize, -⟩, -⟩, -⟩, hsan⟩, -⟩ := hchr w hw
    exact ⟨hsize, hsan⟩
  · exact (hcpu e he).1.1
  · exact (hwraps w hw).1.1

/-- Every entry a valid record asks for is of a legal kind (R302). -/
theorem mapRead_wellFormed {v : Variant} (hv : variantValid v = true) (a : Nat) :
    (mapCpuRead v a).fn.wellFormed = true ∧ (mapPpuRead v a).fn.wellFormed = true := by
  obtain ⟨hprg, hchr, -, -⟩ := rows_of_variantValid hv
  constructor
  · unfold mapCpuRead
    split
    · next w hw => exact log2Ok_log2Field (hprg w (List.mem_of_find?_eq_some hw)).1
    · rfl
  · unfold mapPpuRead
    split
    · next w hw =>
      have hok := log2Ok_log2Field (hchr w (List.mem_of_find?_eq_some hw)).1
      split
      · exact hok
      · split <;> exact hok
    · rfl

theorem mapWrite_wellFormed {v : Variant} (hv : variantValid v = true) (a : Nat) :
    (mapCpuWrite v a).fn.wellFormed = true ∧ (mapPpuWrite v a).fn.wellFormed = true := by
  obtain ⟨-, hchr, hcpu, -⟩ := rows_of_variantValid hv
  constructor
  · unfold mapCpuWrite
    split
    · next e he => exact hcpu e (List.mem_of_find?_eq_some he)
    · rfl
  · unfold mapPpuWrite
    split
    · next w hw =>
      have hok := log2Ok_log2Field (hchr w (List.mem_of_find?_eq_some hw)).1
      split
      · rfl
      · split <;> exact hok
    · rfl

/-! ### Legal kinds in the tables and the records -/

theorem kindsWf_congr {s t : State}
    (h : t.tramp = s.tramp ∧ ∀ sp, (t.bus sp).rd = (s.bus sp).rd ∧ (t.bus sp).wr = (s.bus sp).wr)
    (hs : s.kindsWf) : t.kindsWf := by
  refine ⟨fun sp => ?_, ?_⟩
  · rw [(h.2 sp).1, (h.2 sp).2]; exact hs.1 sp
  · rw [h.1]; exact hs.2

/-- Tables and records that are part of legal ones are legal. -/
theorem kindsWf_of_subset {s t : State} (hs : s.kindsWf) (hrd : ∀ sp, (t.bus sp).rd ⊆ (s.bus sp).rd)
    (hwr : ∀ sp, (t.bus sp).wr ⊆ (s.bus sp).wr) (hrecs : t.tramp ⊆ s.tramp) : t.kindsWf :=
  ⟨fun sp => ⟨fun e he => (hs.1 sp).1 e (hrd sp he), fun e he => (hs.1 sp).2 e (hwr sp he)⟩,
    fun r hr => hs.2 r (hrecs hr)⟩

section Kinds

variable {s : State} (hs : s.kindsWf)
include hs

theorem readEntry_wellFormed (sp : Space) (a : Addr) : (s.readEntry sp a).fn.wellFormed = true := by
  unfold State.readEntry tableGet
  cases hg : assocGet (s.bus sp).rd (entryIndex sp a) with
  | none => rfl
  | some h => exact (hs.1 sp).1 _ (assocGet_mem hg)

theorem writeEntry_wellFormed (sp : Space) (a : Addr) : (s.writeEntry sp a).fn.wellFormed = true := by
  unfold State.writeEntry tableGet
  cases hg : assocGet (s.bus sp).wr (entryIndex sp a) with
  | none => rfl
  | some h => exact (hs.1 sp).2 _ (assocGet_mem hg)

theorem putReadEntry_kindsWf {sp : Space} {a : Addr} {h : ReadRef} (hh : h.fn.wellFormed = true) :
    (s.putReadEntry sp a h).kindsWf := by
  refine ⟨fun sp' => ⟨fun e he => ?_, by rw [putReadEntry_wr]; exact (hs.1 sp').2⟩,
    by rw [putReadEntry_tramp]; exact hs.2⟩
  rw [putReadEntry_bus] at he
  split at he
  · rcases mem_tablePut he with he | rfl
    · exact (hs.1 sp).1 e he
    · exact hh
  · exact (hs.1 sp').1 e he

theorem putWriteEntry_kindsWf {sp : Space} {a : Addr} {h : WriteRef} (hh : h.fn.wellFormed = true) :
    (s.putWriteEntry sp a h).kindsWf := by
  refine ⟨fun sp' => ⟨by rw [putWriteEntry_rd]; exact (hs.1 sp').1, fun e he => ?_⟩,
    by rw [putWriteEntry_tramp]; exact hs.2⟩
  rw [putWriteEntry_bus] at he
  split at he
  · rcases mem_tablePut he with he | rfl
    · exact (hs.1 sp).2 e he
    · exact hh
  · exact (hs.1 sp').2 e he

theorem fillEntries_kindsWf {sp : Space} {lo n : Nat} {rd : Nat → ReadRef} {wr : Nat → WriteRef}
    (hrd : ∀ a, (rd a).fn.wellFormed = true) (hwr : ∀ a, (wr a).fn.wellFormed = true) :
    (s.fillEntries sp lo n rd wr).kindsWf := by
  refine ⟨fun sp' => ?_, by rw [fillEntries_tramp]; exact hs.2⟩
  rw [fillEntries_bus]
  split
  · refine ⟨fun e he => ?_, fun e he => ?_⟩
    · rcases mem_tableFill he with he | ⟨_, _, he, _⟩
      · exact (hs.1 sp).1 e he
      · rw [he]; exact hrd e.1
    · rcases mem_tableFill he with he | ⟨_, _, he, _⟩
      · exact (hs.1 sp).2 e he
      · rw [he]; exact hwr e.1
  · exact hs.1 sp'

theorem addRecord_kindsWf {p : PrevRef} (hp : prevKindWf p = true) : (s.addRecord p).kindsWf := by
  refine ⟨hs.1, fun r hr => ?_⟩
  rcases List.mem_append.mp hr with hr | hr
  · exact hs.2 r hr
  · rw [List.mem_singleton.mp hr]
    exact hp

theorem wrapRead_kindsWf (sp : Space) (a : Addr) {se : SideEffect} (hse : se.wellFormed = true) (p : Addr) :
    (s.wrapRead sp a se p).kindsWf :=
  putReadEntry_kindsWf (addRecord_kindsWf (p := .rd _) hs (readEntry_wellFormed hs sp a)) hse

theorem wrapWrite_kindsWf (sp : Space) (a : Addr) {se : SideEffect} (hse : se.wellFormed = true) (p : Addr) :
    (s.wrapWrite sp a se p).kindsWf :=
  putWriteEntry_kindsWf (addRecord_kindsWf (p := .wr _) hs (writeEntry_wellFormed hs sp a)) hse

theorem releaseEntries_kindsWf : s.releaseEntries.kindsWf :=
  kindsWf_of_subset hs (fun sp => by rw [releaseEntries_bus]; exact List.filter_subset_self _)
    (fun sp => by rw [releaseEntries_bus]; exact List.filter_subset_self _) (List.nil_subset _)

theorem dropTramps_kindsWf : s.dropTramps.kindsWf :=
  kindsWf_of_subset hs (fun sp => by rw [dropTramps_bus]; exact List.filter_subset_self _)
    (fun sp => by rw [dropTramps_bus]; exact List.filter_subset_self _) (List.nil_subset _)

theorem installs_kindsWf {i : Instr} {t : State} (h : Installs s i t) : t.kindsWf := by
  cases h with
  | setrd _ _ _ _ hwf => exact putReadEntry_kindsWf hs hwf
  | setwr _ _ _ _ hwf => exact putWriteEntry_kindsWf hs hwf
  | wraprd sp a _ p hwf => exact wrapRead_kindsWf hs sp a hwf p
  | wrapwr sp a _ p hwf => exact wrapWrite_kindsWf hs sp a hwf p
  | applymirror | applyctlmirror => exact fillEntries_kindsWf hs (fun _ => rfl) (fun _ => rfl)

theorem mapPrgRam_kindsWf : s.mapPrgRam.kindsWf := by
  unfold State.mapPrgRam
  split
  · exact fillEntries_kindsWf hs (fun _ => rfl) (fun _ => rfl)
  · exact hs

theorem mapNametables_kindsWf : s.mapNametables.kindsWf := by
  unfold State.mapNametables
  split <;> exact fillEntries_kindsWf hs (fun _ => rfl) (fun _ => rfl)

theorem mapWindows_kindsWf (hv : variantValid s.params.variant = true) : s.mapWindows.kindsWf :=
  fillEntries_kindsWf
    (fillEntries_kindsWf hs (fun a => (mapRead_wellFormed hv a).1) (fun a => (mapWrite_wellFormed hv a).1))
    (fun a => (mapRead_wellFormed hv a).2) (fun a => (mapWrite_wellFormed hv a).2)

theorem mapWrap_kindsWf {w : Wrap} (hw : w.se.wellFormed = true) : (s.mapWrap w).kindsWf :=
  List.foldlRecOn _ _ hs fun _ ht _ _ => wrapRead_kindsWf ht _ _ hw _

theorem applyMap_kindsWf (hv : variantValid s.params.variant = true) : s.applyMap.kindsWf := by
  have hstart : (mapStart s).kindsWf := by
    obtain ⟨p, c, h⟩ := mapStart_changes s
    rw [h]
    exact dropTramps_kindsWf hs
  have hentries : (mapEntries s).kindsWf :=
    mapNametables_kindsWf (mapWindows_kindsWf (mapPrgRam_kindsWf hstart)
      (by rwa [params_of_sameOutsideTables (mapPrgRam_sameOutsideTables _), mapStart_params]))
  obtain ⟨-, -, -, hwraps⟩ := rows_of_variantValid hv
  rw [← mapEntries_params] at hwraps
  rw [applyMap_eq]
  exact List.foldlRecOn (motive := State.kindsWf) _ _ hentries fun _ ht w hw => mapWrap_kindsWf ht (hwraps w hw)

theorem completes_kindsWf (hv : variantValid s.params.variant = true) {i : Instr} {t : State} (h : Completes s i t) :
    t.kindsWf := by
  rcases tables_cases h with hsame | rfl | rfl | rfl | h
  · exact kindsWf_congr hsame hs
  · rw [initWithRom_eq]
    exact releaseEntries_kindsWf hs
  · exact applyMap_kindsWf hs hv
  · exact releaseEntries_kindsWf hs
  · exact installs_kindsWf hs h

/-- A write ends in a kind as legal as what it starts from and the records it goes through. -/
theorem resolveWrite_wellFormed {fuel : Nat} {h : WriteRef} (hh : h.fn.wellFormed = true)
    {r : List SideEffect × WriteKind × Addr} (hr : resolveWrite s.tramp fuel h = some r) :
    r.2.1.wellFormed = true := by
  fun_induction resolveWrite s.tramp fuel h generalizing r with
  | case1 se k p fuel prev owner hrec ih =>
    obtain ⟨r', hr', rfl⟩ := Option.map_eq_some_iff.mp hr
    exact ih (r := r') (hs.2 _ (List.mem_of_getElem? hrec)) hr'
  | case5 => cases hr; exact hh
  | _ => nomatch hr

end Kinds

/-! ### Bank registers in range (R27, R140) -/

/-- A size a slot can be normalised with: the record's sanitize size, or 1 KB to 32 KB (R27, R92, R143). -/
def legalBankSize (san size : Nat) : Prop := size = san ∨ ∃ n, 10 ≤ n ∧ n ≤ 15 ∧ size = 2 ^ n

theorem legalBankSize_of_log2Ok (san : Nat) {n : Byte} (h : log2Ok n = true) :
    legalBankSize san (sizeOfLog2 n) := by
  rw [log2Ok_eq, decide_eq_true_eq] at h
  exact .inr ⟨n.toNat, h.1, h.2, rfl⟩

theorem slotInRange_normalizeBank {san size : Nat} (h : legalBankSize san size) (idx : Int) (total : Nat) :
    slotInRange san total (normalizeBank idx total size) := by
  by_cases hnone : total / size = 0
  · exact .inl (normalizeBank_none idx total size hnone)
  · have hlt := normalizeBank_lt idx total size
    rw [Nat.max_eq_right (Nat.pos_of_ne_zero hnone)] at hlt
    exact .inr ⟨size, h, hlt⟩

theorem banksOk_congr {s t : State} (hparams : t.params = s.params) (hrom : t.rom = s.rom)
    (hprg : t.prgBank = s.prgBank) (hchr : t.chrBank = s.chrBank) (hs : s.banksOk) : t.banksOk := by
  intro slot
  have hchrSize : t.chrMemSize = s.chrMemSize := by rw [State.chrMemSize, State.chrSize, hrom]; rfl
  rw [hparams, hprg, hchr, hchrSize, State.prgSize, hrom]
  exact hs slot

theorem zeroBanks_banksOk (s : State) : s.zeroBanks.banksOk :=
  fun slot => ⟨.inl (slotGet_zero slot), .inl (slotGet_zero slot)⟩

section Banks

variable {s : State}

theorem sanitize_banksOk (s : State) : s.sanitize.banksOk := by
  intro slot
  simp only [State.sanitize, slotGet_slotMap]
  exact ⟨slotInRange_normalizeBank (.inl rfl) _ _, slotInRange_normalizeBank (.inl rfl) _ _⟩

variable (hs : s.banksOk)
include hs

theorem setPrgBank_banksOk {size : Nat} (h : legalBankSize s.params.variant.prgSanSize size) (slot : Slot)
    (idx : Int) : (s.setPrgBank slot size idx).banksOk := by
  intro x
  refine ⟨?_, (hs x).2⟩
  rw [setPrgBank_prgBank, slotGet_slotSet]
  split
  · exact slotInRange_normalizeBank h idx _
  · exact (hs x).1

theorem setChrBank_banksOk {size : Nat} (h : legalBankSize s.params.variant.chrSanSize size) (slot : Slot)
    (idx : Int) : (s.setChrBank slot size idx).banksOk := by
  intro x
  refine ⟨(hs x).1, ?_⟩
  rw [setChrBank_chrBank, slotGet_slotSet]
  split
  · exact slotInRange_normalizeBank h idx _
  · exact (hs x).2

theorem initPrgWindow_banksOk {w : PrgWindow} (hw : w.size = s.params.variant.prgSanSize) :
    (s.initPrgWindow w).banksOk :=
  setPrgBank_banksOk hs (.inl hw) _ _

theorem initChrWindow_banksOk {w : ChrWindow} (hw : w.size = s.params.variant.chrSanSize) :
    (s.initChrWindow w).banksOk := by
  unfold State.initChrWindow
  split
  · exact setChrBank_banksOk hs (.inl hw) _ _
  · exact setChrBank_banksOk (setChrBank_banksOk hs (.inl hw) _ _) (.inl hw) _ _

theorem serialRecompute_banksOk (r : Serial) : (s.serialRecompute r).banksOk := by
  have prg : ∀ {t : State}, t.banksOk → ∀ slot idx, (t.setPrgBank slot 16384 idx).banksOk :=
    fun ht slot idx => setPrgBank_banksOk ht (.inr ⟨14, by decide, by decide, rfl⟩) slot idx
  have chr : ∀ {t : State}, t.banksOk → ∀ slot idx, (t.setChrBank slot 4096 idx).banksOk :=
    fun ht slot idx => setChrBank_banksOk ht (.inr ⟨12, by decide, by decide, rfl⟩) slot idx
  have hprg : ((s.setMirror (serialMirror r.ctl)).serialPrg r).banksOk := by
    rw [setMirror_eq]
    unfold State.serialPrg
    dsimp only
    split <;> exact prg (prg hs _ _) _ _
  unfold State.serialRecompute State.serialChr
  split <;> exact chr (chr hprg _ _) _ _

theorem indexedRecompute_banksOk (r : Indexed) : (s.indexedRecompute r).banksOk := by
  have prg : ∀ {t : State}, t.banksOk → ∀ slot idx, (t.setPrgBank slot 8192 idx).banksOk :=
    fun ht slot idx => setPrgBank_banksOk ht (.inr ⟨13, by decide, by decide, rfl⟩) slot idx
  have chr : ∀ {t : State}, t.banksOk → ∀ slot idx, (t.setChrBank slot 1024 idx).banksOk :=
    fun ht slot idx => setChrBank_banksOk ht (.inr ⟨10, by decide, by decide, rfl⟩) slot idx
  have hchr : (s.indexedChr r).banksOk :=
    chr (chr (chr (chr (chr (chr (chr (chr hs _ _) _ _) _ _) _ _) _ _) _ _) _ _) _ _
  unfold State.indexedRecompute State.indexedPrg
  dsimp only
  split <;> exact prg (prg (prg (prg hchr _ _) _ _) _ _) _ _

theorem setFamily_banksOk (f : FamilyState) : (s.setFamily f).banksOk := hs

theorem kindWrShift_banksOk (p : Addr) (v : Byte) : (kindWrShift p v s).banksOk := by
  unfold kindWrShift
  split
  · dsimp only
    split
    · exact serialRecompute_banksOk (setFamily_banksOk hs _) _
    · split
      · exact serialRecompute_banksOk (setFamily_banksOk hs _) _
      · exact hs
  all_goals exact hs

theorem kindWrSelect_banksOk (v : Byte) : (kindWrSelect v s).banksOk := by
  unfold kindWrSelect
  split
  · exact indexedRecompute_banksOk (setFamily_banksOk hs _) _
  all_goals exact hs

theorem kindWrData_banksOk (v : Byte) : (kindWrData v s).banksOk := by
  unfold kindWrData
  split
  · exact indexedRecompute_banksOk (setFamily_banksOk hs _) _
  all_goals exact hs

omit hs in
theorem runWrite_params_rom (fn : WriteKind) (sp : Space) (p : Addr) (v : Byte) (s : State) :
    (runWrite fn sp p v s).params = s.params ∧ (runWrite fn sp p v s).rom = s.rom := by
  obtain ⟨st, pb, cb, m, irq, out, calls, fam, ram, h⟩ := runWrite_changes fn sp p v s
  rw [h]
  simp

theorem runWrite_banksOk_of_kept {fn : WriteKind} {sp : Space} {p : Addr} {v : Byte}
    (hfn : mayWriteBanks (writeInstr ⟨sp, p, v⟩ 0 fn) = false) : (runWrite fn sp p v s).banksOk := by
  obtain ⟨hparams, hrom⟩ := runWrite_params_rom fn sp p v s
  obtain ⟨hprg, hchr⟩ := (runWrite_kindFrame ⟨sp, p, v⟩ 0 fn sp p v s).banks hfn
  exact banksOk_congr hparams hrom hprg hchr hs

/-- A write of a legal kind keeps every bank register in range. -/
theorem runWrite_banksOk {fn : WriteKind} (hwf : fn.wellFormed = true) (sp : Space) (p : Addr) (v : Byte) :
    (runWrite fn sp p v s).banksOk := by
  cases fn
  case direct toChr slot n mask =>
    simp only [runWrite, kindWrDirect]
    split
    · exact setChrBank_banksOk hs (legalBankSize_of_log2Ok _ hwf) _ _
    · exact setPrgBank_banksOk hs (legalBankSize_of_log2Ok _ hwf) _ _
  case shift => exact kindWrShift_banksOk hs p v
  case select => exact kindWrSelect_banksOk hs v
  case data => exact kindWrData_banksOk hs v
  case tramp => exact hs
  all_goals exact runWrite_banksOk_of_kept hs rfl

omit hs in
theorem initChrWindow_params (s : State) (w : ChrWindow) : (s.initChrWindow w).params = s.params := by
  unfold State.initChrWindow
  split <;> rfl

theorem initWindows_banksOk (hv : variantValid s.params.variant = true) : s.initWindows.banksOk := by
  obtain ⟨hprg, hchr, -, -⟩ := rows_of_variantValid hv
  have hprgs := List.foldlRecOn (motive := fun t : State => t.params = s.params ∧ t.banksOk)
    s.params.variant.prgWindows State.initPrgWindow ⟨rfl, hs⟩ fun t ⟨hp, ht⟩ w hw =>
      ⟨hp, initPrgWindow_banksOk ht (by rw [hp]; exact (hprg w hw).2)⟩
  have hall := List.foldlRecOn (motive := fun t : State => t.params = s.params ∧ t.banksOk)
    s.params.variant.chrWindows State.initChrWindow hprgs fun t ⟨hp, ht⟩ w hw =>
      ⟨(initChrWindow_params t w).trans hp, initChrWindow_banksOk ht (by rw [hp]; exact (hchr w hw).2)⟩
  exact hall.2

theorem applyMap_banksOk (hv : variantValid s.params.variant = true) : s.applyMap.banksOk := by
  have hstart : (mapStart s).banksOk := by
    unfold mapStart
    split
    · exact initWindows_banksOk (s := s.dropTramps) hs hv
    · exact hs
  obtain ⟨p, c, h⟩ := mapStart_changes s
  obtain ⟨cr, cw, pr, pw, recs, hmap⟩ := applyMap_changes s
  rw [hmap]
  exact banksOk_congr (mapStart_params s).symm (by rw [h]; rfl) rfl rfl hstart

omit hs in
theorem resetMapper_banksOk (hv : variantValid s.params.variant = true) : s.resetMapper.banksOk := by
  unfold State.resetMapper
  rw [setMirror_eq]
  exact initWindows_banksOk (zeroBanks_banksOk s) hv

omit hs in
theorem writeInstr_wellFormed (c : WriteCall) (k : Nat) (fn : WriteKind) :
    (writeInstr c k fn).wellFormed = fn.wellFormed := by
  cases fn <;> rfl

/-- Every instruction of a valid record keeps the bank registers in range. -/
theorem completes_banksOk (hk : s.kindsWf) (hv : variantValid s.params.variant = true) {i : Instr}
    (hwf : i.wellFormed = true) {t : State} (h : Completes s i t) : t.banksOk := by
  have hf := completes_frame h
  have hkept : i ≠ .init → mayWriteBanks i = false → t.banksOk := fun hi hm =>
    banksOk_congr hf.inputs.1 (hf.rom hi) (hf.banks hm).1 (hf.banks hm).2 hs
  cases h with
  | init => exact sanitize_banksOk _
  | applymap => exact applyMap_banksOk hs hv
  | reset => exact resetMapper_banksOk hv
  | sanitize => exact sanitize_banksOk s
  | write _ ses fn c hw hi =>
    have hfn : fn.wellFormed = true := by
      rcases hi with ⟨a, rfl⟩ | ⟨p, k, se, rfl⟩ | ⟨k, rfl, rfl⟩
      · obtain ⟨⟨_, _, _⟩, hr, he⟩ := Option.map_eq_some_iff.mp hw
        cases he
        exact resolveWrite_wellFormed hk (writeEntry_wellFormed hk _ _) hr
      · obtain ⟨⟨_, _, _⟩, hr, he⟩ := Option.map_eq_some_iff.mp hw
        cases he
        exact resolveWrite_wellFormed hk (h := ⟨.tramp se, .tramp k, p⟩) hwf hr
      · rwa [writeInstr_wellFormed] at hwf
    refine runWrite_banksOk ?_ hfn c.sp c.param c.v
    rw [runSideEffects_eq]
    exact banksOk_congr (by simp) (by simp) (by simp) (by simp) hs
  | answers _ _ h => cases h <;> exact hkept nofun rfl
  | installs _ _ h => cases h <;> exact hkept nofun rfl
  | read _ _ _ _ _ hi =>
    have hm := (runsRead_mayWrite hi).2.1
    exact hkept (by rintro rfl; nomatch hm) hm
  | _ => exact hkept nofun rfl

end Banks

/-- Settles O57: legal kinds keep the banks in range, so the two are kept together. -/
theorem banksStayInRange : Obligations.BanksStayInRange :=
  fun _ _ hk hb => step_preserves (P := fun s => s.kindsWf ∧ s.banksOk) (fun _ _ hs => hs)
    (fun hv hwf hs hc => ⟨completes_kindsWf hs.1 hv hc, completes_banksOk hs.2 hs.1 hv hwf hc⟩) ⟨hk, hb⟩

end Sys2Proof.Proofs
end

section
/-! SUPPORT. The counter and the family that a state holds (spec/10_state.md R20, R29 to R38): the invariant of O58 as
one statement of the counter with the line and one of the family, a rule per operation, and O58 from them. -/

namespace Sys2Proof.Proofs

open Sys2Proof Sys2Proof.Machine Sys2Proof.Laws

/-! ### The invariant of the counter and of the family -/

/-- A VRC prescaler between commands (R183). -/
def prescalerInRange (p : BitVec 16) : Prop := 1 ≤ p.toInt ∧ p.toInt ≤ 341

/-- The counter is that of a record's `irq` field, its prescaler in range, the line down where there is none (R20,
R183, R323). -/
def counterOk (name : IrqName) : IrqState → Bool → Prop
  | .none, line => name = .none ∧ line = false
  | .vrc8 r, _ => name = .vrc8 ∧ prescalerInRange r.prescaler
  | .vrc16 r, _ => name = .vrc16 ∧ prescalerInRange r.prescaler
  | .mmc3 _, _ => name = .mmc3

/-- The family is that of a record's `family` field, its shift count at most 4 (R20, R35). -/
def familyOk (name : FamilyName) : FamilyState → Prop
  | .none => name = .none
  | .direct => name = .direct
  | .serial r => name = .serial ∧ r.shCnt.toNat ≤ 4
  | .indexed _ => name = .indexed
  | .latch _ => name = .latch

theorem counterOk_iff (name : IrqName) (irq : IrqState) (line : Bool) :
    counterOk name irq line ↔ irqNameOf irq = name
      ∧ ((∀ r, irq = .vrc8 r → prescalerInRange r.prescaler) ∧ ∀ r, irq = .vrc16 r → prescalerInRange r.prescaler)
      ∧ (irq = .none → line = false) := by
  cases irq <;> simp [counterOk, irqNameOf, eq_comm]

theorem familyOk_iff (name : FamilyName) (fam : FamilyState) :
    familyOk name fam ↔ familyNameOf fam = name ∧ ∀ r, fam = .serial r → r.shCnt.toNat ≤ 4 := by
  cases fam <;> simp [familyOk, familyNameOf, eq_comm]

/-- A state holds the counter and the family of its record, each in range. -/
def registersOk (s : State) : Prop :=
  counterOk s.params.variant.irq s.irq s.irqOut ∧ familyOk s.params.variant.family s.family

theorem registersOk_iff (s : State) :
    registersOk s ↔ s.registersMatch ∧ s.shiftCountOk ∧ s.prescalerOk ∧ s.lineOk := by
  unfold registersOk
  rw [counterOk_iff, familyOk_iff]
  constructor
  · rintro ⟨⟨hirq, hpre, hline⟩, hfam, hcnt⟩
    exact ⟨⟨hirq, hfam⟩, hcnt, hpre, hline⟩
  · rintro ⟨⟨hirq, hfam⟩, hcnt, hpre, hline⟩
    exact ⟨⟨hirq, hpre, hline⟩, hfam, hcnt⟩

/-! ### The prescaler -/

theorem prescalerInRange_period : prescalerInRange Config.prescalerPeriod := by
  constructor <;> decide

/-- A step of the prescaler takes 3 off, and 341 more where that leaves 0 or less (R183). -/
theorem prescalerStep_inRange {p : BitVec 16} (h : prescalerInRange p) : prescalerInRange (prescalerStep p).1 := by
  obtain ⟨hlo, hhi⟩ := h
  have hstep : (p - Config.prescalerStep).toInt = p.toInt - 3 := by
    rw [BitVec.toInt_sub, Int.bmod_eq_of_le] <;> simp [Config.prescalerStep] <;> omega
  unfold prescalerStep
  dsimp only
  split
  · next hle =>
    have hadd : (p - Config.prescalerStep + Config.prescalerPeriod).toInt = p.toInt + 338 := by
      rw [BitVec.toInt_add, hstep, Int.bmod_eq_of_le] <;> simp [Config.prescalerPeriod] <;> omega
    unfold prescalerInRange
    dsimp only
    omega
  · unfold prescalerInRange
    dsimp only
    omega

theorem vrc8Clock_prescaler (l : VrcBits) (r : Vrc8) : (vrc8Clock l r).1.prescaler = r.prescaler := by
  unfold vrc8Clock
  split <;> rfl

theorem vrc16Clock_prescaler (l : VrcBits) (r : Vrc16) : (vrc16Clock l r).1.prescaler = r.prescaler := by
  unfold vrc16Clock
  split
  · split <;> rfl
  · split <;> rfl

theorem vrc8Tick_inRange (l : VrcBits) (scan : ScanlineClock) {r : Vrc8} (h : prescalerInRange r.prescaler) :
    prescalerInRange (vrc8Tick l scan r).1.prescaler := by
  unfold vrc8Tick
  split
  · dsimp only
    split
    · rw [vrc8Clock_prescaler]; exact prescalerStep_inRange h
    · exact prescalerStep_inRange h
  · split
    · rwa [vrc8Clock_prescaler]
    · exact h

theorem vrc16Tick_inRange (l : VrcBits) (scan : ScanlineClock) {r : Vrc16} (h : prescalerInRange r.prescaler) :
    prescalerInRange (vrc16Tick l scan r).1.prescaler := by
  unfold vrc16Tick
  split
  · dsimp only
    split
    · rw [vrc16Clock_prescaler]; exact prescalerStep_inRange h
    · exact prescalerStep_inRange h
  · split
    · rwa [vrc16Clock_prescaler]
    · exact h

/-! ### The counter and the line -/

theorem counterOk_irqInit (name : IrqName) : counterOk name (irqInit name) false := by
  cases name
  · exact ⟨rfl, rfl⟩
  · exact ⟨rfl, prescalerInRange_period⟩
  · exact ⟨rfl, prescalerInRange_period⟩
  · exact rfl

theorem counterOk_line_down {name : IrqName} {irq : IrqState} {line : Bool} (h : counterOk name irq line) :
    counterOk name irq false := by
  cases irq
  · exact ⟨h.1, rfl⟩
  all_goals exact h

theorem stepIrq_irq (s : State) (r : IrqState) (b : Bool) : (s.stepIrq r b).irq = r := by
  cases b <;> rfl

section Counter

variable {s : State} {name : IrqName} (hs : counterOk name s.irq s.irqOut)
include hs

theorem tickIrq_counterOk : counterOk name s.tickIrq.irq s.tickIrq.irqOut := by
  unfold State.tickIrq
  split
  · next r h =>
    rw [h] at hs
    rw [stepIrq_irq]
    exact ⟨hs.1, vrc8Tick_inRange _ _ hs.2⟩
  · next r h =>
    rw [h] at hs
    rw [stepIrq_irq]
    exact ⟨hs.1, vrc16Tick_inRange _ _ hs.2⟩
  · exact hs
  · exact hs

theorem a12Sample_counterOk (a : Addr) : counterOk name (s.a12Sample a).irq (s.a12Sample a).irqOut := by
  unfold State.a12Sample
  split
  · next r h =>
    split
    · rw [stepIrq_irq]
      rw [h] at hs
      exact hs
    · exact hs
  all_goals exact hs

theorem runWrite_counterOk_of_kept {fn : WriteKind} {sp : Space} {p : Addr} {v : Byte}
    (hirq : mayWriteIrq (writeInstr ⟨sp, p, v⟩ 0 fn) = false)
    (hline : mayWriteLine (writeInstr ⟨sp, p, v⟩ 0 fn) = false) :
    counterOk name (runWrite fn sp p v s).irq (runWrite fn sp p v s).irqOut := by
  have hf := runWrite_kindFrame ⟨sp, p, v⟩ 0 fn sp p v s
  rw [hf.irq hirq, (hf.line hline).1]
  exact hs

/-- A counter write keeps the variant and the range; a control write restores the prescaler (R182, R328). -/
theorem runWrite_counterOk (fn : WriteKind) (sp : Space) (p : Addr) (v : Byte) :
    counterOk name (runWrite fn sp p v s).irq (runWrite fn sp p v s).irqOut := by
  cases fn
  case m3Latch | m3Reload | m3Enable | m3Disable | vrcLatch | vrcLatchLo | vrcLatchHi | vrcAck =>
    cases hirq : s.irq <;> rw [hirq] at hs <;>
      simpa [runWrite, kindWrM3Latch, kindWrM3Reload, kindWrM3Enable, kindWrM3Disable, kindWrVrcLatch,
        kindWrVrcLatchLo, kindWrVrcLatchHi, kindWrVrcAck, hirq, counterOk] using hs
  case vrcCtrl =>
    simp only [runWrite, kindWrVrcCtrl]
    split
    · next h => rw [h] at hs; exact ⟨hs.1, prescalerInRange_period⟩
    · next h => rw [h] at hs; exact ⟨hs.1, prescalerInRange_period⟩
    · exact hs
    · exact hs
  case chrA12 slot n =>
    obtain ⟨m, h⟩ := writeChr_changes (s.a12Sample p) slot n p v
    rw [show runWrite (.chrA12 slot n) sp p v s = _ from h]
    exact a12Sample_counterOk hs p
  case tramp => exact hs
  all_goals exact runWrite_counterOk_of_kept hs rfl rfl

theorem runRead_counterOk (fn : ReadKind) (sp : Space) (p : Addr) (out : Byte) :
    counterOk name (runRead fn sp p out s).1.irq (runRead fn sp p out s).1.irqOut := by
  by_cases h1 : fn = .external
  · subst h1; exact hs
  · by_cases h2 : ∃ slot n, fn = .chrA12 slot n
    · obtain ⟨slot, n, rfl⟩ := h2
      exact a12Sample_counterOk hs p
    · rwa [runRead_state h1 fun slot n h => h2 ⟨slot, n, h⟩]

/-- Every instruction keeps the counter that of the record. -/
theorem completes_counterOk (hname : s.params.variant.irq = name) {i : Instr} {t : State} (h : Completes s i t) :
    counterOk name t.irq t.irqOut := by
  have hf := completes_frame h
  have hkept : mayWriteIrq i = false → mayWriteLine i = false → counterOk name t.irq t.irqOut := fun hi hl => by
    rw [hf.irq hi, (hf.line hl).1]; exact hs
  cases h with
  | init => rw [initWithRom_eq, ← hname]; exact counterOk_irqInit _
  | reset =>
    obtain ⟨p, c, h⟩ := resetMapper_changes s
    rw [h, ← hname]
    exact counterOk_irqInit _
  | teardown => exact counterOk_line_down hs
  | tick => exact tickIrq_counterOk hs
  | read _ ses fn c _ _ =>
    simp only [State.readThrough, respond_irq, respond_irqOut, setLast_irq, setLast_irqOut]
    rw [runSideEffects_eq]
    refine runRead_counterOk ?_ fn c.sp c.param _
    exact hs
  | write _ ses fn c _ _ =>
    rw [runSideEffects_eq]
    refine runWrite_counterOk ?_ fn c.sp c.param c.v
    simpa using hs
  | answers _ _ h => cases h <;> exact hkept rfl rfl
  | installs _ _ h => cases h <;> exact hkept rfl rfl
  | _ => exact hkept rfl rfl

end Counter

/-! ### The family -/

theorem familyOk_familyInit (name : FamilyName) : familyOk name (familyInit name) := by
  cases name
  case serial => exact ⟨rfl, by decide⟩
  all_goals exact rfl

section Family

variable {s : State} {name : FamilyName} (hs : familyOk name s.family)
include hs

theorem runSideEffect_familyOk (se : SideEffect) : familyOk name (s.runSideEffect se).family := by
  cases se with
  | latch w code =>
    unfold State.runSideEffect
    dsimp only
    split
    · next h => rw [h] at hs; exact hs
    all_goals exact hs

omit hs in
theorem runSideEffects_familyOk (ses : List SideEffect) {s : State} (hs : familyOk name s.family) :
    familyOk name (s.runSideEffects ses).family := by
  induction ses generalizing s with
  | nil => exact hs
  | cons se ses ih => exact ih (runSideEffect_familyOk hs se)

omit hs in
theorem serialRecompute_family (s : State) (r : Serial) : (s.serialRecompute r).family = s.family := by
  obtain ⟨p, c, m, h⟩ := serialRecompute_changes s r
  rw [h]

omit hs in
theorem indexedRecompute_family (s : State) (r : Indexed) : (s.indexedRecompute r).family = s.family := by
  obtain ⟨p, c, h⟩ := indexedRecompute_changes s r
  rw [h]

/-- The fifth bit commits, so the count goes from 3 to 4 at most (R35, R236). -/
theorem kindWrShift_familyOk (p : Addr) (v : Byte) : familyOk name (kindWrShift p v s).family := by
  unfold kindWrShift
  split
  · next r h =>
    rw [h] at hs
    obtain ⟨hname, hcnt⟩ := hs
    dsimp only
    split
    · rw [serialRecompute_family]
      exact ⟨hname, Nat.zero_le 4⟩
    · split
      · rw [serialRecompute_family]
        exact ⟨hname, Nat.zero_le 4⟩
      · next hfive =>
        refine ⟨hname, ?_⟩
        rw [← BitVec.toNat_inj, BitVec.toNat_add] at hfive
        rw [BitVec.toNat_add]
        simp at hfive ⊢
        omega
  all_goals exact hs

theorem kindWrSelect_familyOk (v : Byte) : familyOk name (kindWrSelect v s).family := by
  unfold kindWrSelect
  split
  · next r h =>
    rw [h] at hs
    rw [indexedRecompute_family]
    exact hs
  all_goals exact hs

theorem kindWrData_familyOk (v : Byte) : familyOk name (kindWrData v s).family := by
  unfold kindWrData
  split
  · next r h =>
    rw [h] at hs
    rw [indexedRecompute_family]
    exact hs
  all_goals exact hs

theorem runWrite_familyOk_of_kept {fn : WriteKind} {sp : Space} {p : Addr} {v : Byte}
    (hfn : mayWriteFamily (writeInstr ⟨sp, p, v⟩ 0 fn) = false) : familyOk name (runWrite fn sp p v s).family := by
  rw [(runWrite_kindFrame ⟨sp, p, v⟩ 0 fn sp p v s).family hfn]
  exact hs

theorem runWrite_familyOk (fn : WriteKind) (sp : Space) (p : Addr) (v : Byte) :
    familyOk name (runWrite fn sp p v s).family := by
  cases fn
  case shift => exact kindWrShift_familyOk hs p v
  case select => exact kindWrSelect_familyOk hs v
  case data => exact kindWrData_familyOk hs v
  case tramp => exact hs
  all_goals exact runWrite_familyOk_of_kept hs rfl

omit hs in
theorem runRead_family (fn : ReadKind) (sp : Space) (p : Addr) (out : Byte) (s : State) :
    (runRead fn sp p out s).1.family = s.family := by
  obtain ⟨irq, out, calls, draws, h⟩ := runRead_changes fn sp p out s
  rw [h]

/-- Every instruction keeps the family that of the record. -/
theorem completes_familyOk (hname : s.params.variant.family = name) {i : Instr} {t : State} (h : Completes s i t) :
    familyOk name t.family := by
  have hf := completes_frame h
  have hkept : mayWriteFamily i = false → familyOk name t.family := fun hi => by rw [hf.family hi]; exact hs
  cases h with
  | init => rw [initWithRom_eq, ← hname]; exact familyOk_familyInit _
  | reset =>
    obtain ⟨p, c, h⟩ := resetMapper_changes s
    rw [h, ← hname]
    exact familyOk_familyInit _
  | seLatch w st => exact runSideEffect_familyOk hs _
  | read _ ses fn c _ _ =>
    simp only [State.readThrough, respond_family, setLast_family, runRead_family]
    exact runSideEffects_familyOk ses hs
  | write _ ses fn c _ _ =>
    exact runWrite_familyOk (runSideEffects_familyOk ses (by rwa [setLast_family])) fn c.sp c.param c.v
  | answers _ _ h => cases h <;> exact hkept rfl
  | installs _ _ h => cases h <;> exact hkept rfl
  | _ => exact hkept rfl

end Family

/-- Settles O58: the counter and the family are each kept by every instruction, the record by all. -/
theorem registersStayConsistent : Obligations.RegistersStayConsistent := by
  intro s t hmatch hshift hpre hline h
  rw [← registersOk_iff]
  refine step_preserves (P := registersOk) (fun _ _ hs => hs) (fun _ _ hs hc => ?_)
    ((registersOk_iff s).mpr ⟨hmatch, hshift, hpre, hline⟩) h
  unfold registersOk
  rw [(completes_frame hc).inputs.1]
  exact ⟨completes_counterOk hs.1 rfl hc, completes_familyOk hs.2 rfl hc⟩

end Sys2Proof.Proofs
end

section
/-! SUPPORT. The power-on state (spec/10_state.md R45): O59 and O60. -/

namespace Sys2Proof.Proofs

open Sys2Proof Sys2Proof.Machine Sys2Proof.Laws

section PowerOn

variable (p : Params)

theorem powerOn_bus (sp : Space) : (State.powerOn p).bus sp = busPowerOn sp := by
  cases sp <;> rfl

theorem powerOn_memoriesWf : (State.powerOn p).memoriesWf :=
  ⟨fun sp => by rw [powerOn_bus]; exact memory_empty_wf _, memory_empty_wf _⟩

theorem powerOn_tablesWf : (State.powerOn p).tablesWf := by
  intro sp
  rw [powerOn_bus]
  exact ⟨⟨.nil, nofun⟩, ⟨.nil, nofun⟩⟩

/-- The tables and the record list are empty, so nothing in them can be wrong. -/
theorem powerOn_entries :
    (State.powerOn p).trampsOk ∧ (State.powerOn p).kindsWf ∧ (State.powerOn p).lifetimeOk := by
  refine ⟨⟨fun sp => ?_, nofun⟩, ⟨fun sp => ?_, nofun⟩, fun _ sp => ?_⟩
  all_goals
    rw [powerOn_bus]
    exact ⟨nofun, nofun⟩

theorem powerOn_banksOk : (State.powerOn p).banksOk :=
  fun slot => ⟨.inl (slotGet_zero slot), .inl (slotGet_zero slot)⟩

theorem powerOn_registersOk : registersOk (State.powerOn p) :=
  ⟨counterOk_irqInit _, familyOk_familyInit _⟩

end PowerOn

/-- Settles O59: each part of `safe` from the rules for empty memories, empty tables and initial registers. -/
theorem powerOnMeetsTheInvariants : Obligations.PowerOnMeetsTheInvariants := by
  intro p
  obtain ⟨htramps, hkinds, hlifetime⟩ := powerOn_entries p
  exact ⟨powerOn_memoriesWf p, powerOn_tablesWf p, htramps, hkinds, hlifetime, powerOn_banksOk p,
    (registersOk_iff _).mp (powerOn_registersOk p)⟩

/-- Settles O60: the entries and the bytes of empty containers, and the INIT column for the registers. -/
theorem powerOnValues : Obligations.PowerOnValues := by
  intro p
  have hirq : ∀ {name}, p.variant.irq = name → (State.powerOn p).irq = irqInit name := fun h => h ▸ rfl
  have hfamily : ∀ {name}, p.variant.family = name → (State.powerOn p).family = familyInit name := fun h => h ▸ rfl
  refine ⟨fun sp a => ?_, fun sp i => ?_, fun i => rfl, fun sp => by rw [powerOn_bus]; rfl,
    fun slot => ⟨slotGet_zero slot, slotGet_zero slot⟩, rfl, hirq, hirq, hirq, hfamily,
    fun h => ⟨Vector.replicate 8 0, hfamily h, fun i => ?_⟩, hfamily, rfl, rfl, rfl⟩
  · rw [State.readEntry, State.writeEntry, powerOn_bus]
    exact ⟨rfl, rfl⟩
  · rw [State.storeByte, powerOn_bus]
    rfl
  · simp [regGet]

end Sys2Proof.Proofs
end

section
/-! SUPPORT. `TICK` of the two VRC counters (spec/43_irq_counters.md R183, R184): O35 and O36. -/

namespace Sys2Proof.Proofs

open Sys2Proof Sys2Proof.Machine Sys2Proof.Laws

theorem exec_tick {s : State} (h : s.live = true) : exec .tick s = .next s.tickIrq := by
  simp [exec, execTick, State.whenLive, h]

/-- Whether a tick clocks the counter: in cycle mode when the prescaler runs out, else by the parameter (R183). -/
def vrcTickClocks (l : VrcBits) (scan : ScanlineClock) (c : BitVec 4) (p : BitVec 16) : Bool :=
  if decide (c.getLsbD l.m = l.cycleMode) then decide ((p - 3).toInt ≤ 0) else decide (scan = .everyTick)

/-- The prescaler after a tick (R183). -/
def vrcTickPrescaler (l : VrcBits) (c : BitVec 4) (p : BitVec 16) : BitVec 16 :=
  if decide (c.getLsbD l.m = l.cycleMode) then (if (p - 3).toInt ≤ 0 then p - 3 + 341 else p - 3) else p

theorem ctrlM_eq (l : VrcBits) (c : BitVec 4) : ctrlM l c = decide (c.getLsbD l.m = l.cycleMode) := rfl

theorem prescalerStep_eq (p : BitVec 16) :
    prescalerStep p = (if (p - 3).toInt ≤ 0 then p - 3 + 341 else p - 3, decide ((p - 3).toInt ≤ 0)) := by
  change (if (p - 3).toInt ≤ 0 then (p - 3 + 341, true) else (p - 3, false)) = _
  by_cases h : (p - 3).toInt ≤ 0
  · rw [if_pos h, if_pos h, decide_eq_true h]
  · rw [if_neg h, if_neg h, decide_eq_false h]

theorem vrc8Tick_eq_clock (l : VrcBits) (scan : ScanlineClock) (r : Vrc8) :
    vrc8Tick l scan r
      = if vrcTickClocks l scan r.ctrl r.prescaler then
          vrc8Clock l { r with prescaler := vrcTickPrescaler l r.ctrl r.prescaler }
        else ({ r with prescaler := vrcTickPrescaler l r.ctrl r.prescaler }, false) := by
  simp only [vrc8Tick, vrcTickClocks, vrcTickPrescaler, ctrlM_eq, prescalerStep_eq]
  by_cases hcycle : r.ctrl.getLsbD l.m = l.cycleMode
  · simp only [hcycle, decide_true, if_true]
  · simp only [hcycle, decide_false, Bool.false_eq_true, if_false]
    cases scan <;> rfl

theorem vrc16Tick_eq_clock (l : VrcBits) (scan : ScanlineClock) (r : Vrc16) :
    vrc16Tick l scan r
      = if vrcTickClocks l scan r.ctrl r.prescaler then
          vrc16Clock l { r with prescaler := vrcTickPrescaler l r.ctrl r.prescaler }
        else ({ r with prescaler := vrcTickPrescaler l r.ctrl r.prescaler }, false) := by
  simp only [vrc16Tick, vrcTickClocks, vrcTickPrescaler, ctrlM_eq, prescalerStep_eq]
  by_cases hcycle : r.ctrl.getLsbD l.m = l.cycleMode
  · simp only [hcycle, decide_true, if_true]
  · simp only [hcycle, decide_false, Bool.false_eq_true, if_false]
    cases scan <;> rfl

/-- A tick of the 8-bit counter: it wraps where it is clocked at all ones, and a wrap asserts if E is set (R184). -/
theorem vrc8Tick_eq (l : VrcBits) (scan : ScanlineClock) (r : Vrc8) :
    let clock := vrcTickClocks l scan r.ctrl r.prescaler
    let wrap := clock && decide (r.counter = 0xFF)
    vrc8Tick l scan r = ({ r with
      prescaler := vrcTickPrescaler l r.ctrl r.prescaler
      counter := if wrap then r.latch else if clock then r.counter + 1 else r.counter }, wrap && ctrlE l r.ctrl) := by
  intro clock wrap
  rw [vrc8Tick_eq_clock]
  change (if clock then _ else _) = _
  cases hc : clock with
  | false => simp [wrap, hc]
  | true =>
    unfold vrc8Clock
    by_cases hones : r.counter = 0xFF#8 <;> simp [wrap, hc, hones]

/-- Settles O35: the tick answers the counter of `vrc8Tick_eq`, and asserts where that says so. -/
theorem tickOfTheEightBitCounter : Obligations.TickOfTheEightBitCounter := by
  intro s r hlive hirq bits cycle q clock wrap
  refine ⟨(vrc8Tick bits s.params.scanlineClock r).1, ?_, ?_⟩
  · rw [exec_tick hlive, State.tickIrq, hirq]
    dsimp only
    rw [vrc8Tick_eq]
    rfl
  · rw [vrc8Tick_eq]
    exact ⟨rfl, rfl, rfl, rfl⟩

/-- A tick of the 16-bit counter with S = 0. -/
theorem vrc16Tick_eq_whole (l : VrcBits) (scan : ScanlineClock) (r : Vrc16) (hs : ctrlS l r.ctrl = false) :
    let clock := vrcTickClocks l scan r.ctrl r.prescaler
    let wrap := clock && decide (r.counter = 0xFFFF)
    vrc16Tick l scan r = ({ r with
      prescaler := vrcTickPrescaler l r.ctrl r.prescaler
      counter := if wrap then r.latch else if clock then r.counter + 1 else r.counter }, wrap && ctrlE l r.ctrl) := by
  intro clock wrap
  rw [vrc16Tick_eq_clock]
  change (if clock then _ else _) = _
  cases hc : clock with
  | false => simp [wrap, hc]
  | true =>
    unfold vrc16Clock
    by_cases hones : r.counter = 0xFFFF#16 <;> simp [wrap, hc, hones, hs]

/-- A tick of the 16-bit counter with S = 1: its low byte counts. -/
theorem vrc16Tick_eq_low (l : VrcBits) (scan : ScanlineClock) (r : Vrc16) (hs : ctrlS l r.ctrl = true) :
    let clock := vrcTickClocks l scan r.ctrl r.prescaler
    let wrap := clock && decide (lowByte r.counter = 0xFF)
    vrc16Tick l scan r = ({ r with
      prescaler := vrcTickPrescaler l r.ctrl r.prescaler
      counter := if wrap then setLow r.counter (lowByte r.latch)
        else if clock then setLow r.counter (lowByte r.counter + 1) else r.counter }, wrap && ctrlE l r.ctrl) := by
  intro clock wrap
  rw [vrc16Tick_eq_clock]
  change (if clock then _ else _) = _
  cases hc : clock with
  | false => simp [wrap, hc]
  | true =>
    unfold vrc16Clock
    by_cases hones : lowByte r.counter = 0xFF#8 <;> simp [wrap, hc, hones, hs]

theorem lowByte_eq_ones_iff (w : BitVec 16) : lowByte w = 0xFF#8 ↔ w.toNat % 256 = 255 := by
  rw [← BitVec.toNat_inj, lowByte_toNat]
  rfl

/-- Counting the low byte keeps the high byte, and the low byte goes up by one short of a wrap (R184). -/
theorem lowByteCount_toNat (c latch : BitVec 16) (clock : Bool) :
    let wrap := clock && decide (lowByte c = 0xFF)
    let c' := if wrap then setLow c (lowByte latch) else if clock then setLow c (lowByte c + 1) else c
    c'.toNat / 256 = c.toNat / 256
    ∧ c'.toNat % 256 = if wrap then latch.toNat % 256 else if clock then c.toNat % 256 + 1 else c.toNat % 256 := by
  intro wrap c'
  cases clock with
  | false => exact ⟨rfl, rfl⟩
  | true =>
    by_cases hones : lowByte c = 0xFF#8
    · have hwrap : wrap = true := by simp [wrap, hones]
      have hc' : c' = setLow c (lowByte latch) := if_pos hwrap
      rw [hc', if_pos hwrap, setLow_toNat, lowByte_toNat]
      omega
    · have hwrap : ¬ wrap = true := by simp [wrap, hones]
      have hc' : c' = setLow c (lowByte c + 1) := if_neg hwrap
      have hlow := mt (lowByte_eq_ones_iff c).mpr hones
      have hnext : (lowByte c + 1).toNat = c.toNat % 256 + 1 := by
        rw [BitVec.toNat_add, lowByte_toNat]
        exact Nat.mod_eq_of_lt (by simp; omega)
      rw [hc', if_neg hwrap, if_pos rfl, setLow_toNat, hnext]
      omega

/-- Settles O36: the tick answers the counter of `vrc16Tick_eq_whole` or `vrc16Tick_eq_low`. -/
theorem tickOfTheSixteenBitCounter : Obligations.TickOfTheSixteenBitCounter := by
  intro s r hlive hirq bits cycle sub q clock wrap
  refine ⟨(vrc16Tick bits s.params.scanlineClock r).1, ?_⟩
  rw [exec_tick hlive, State.tickIrq, hirq]
  cases hsub : sub with
  | false =>
    dsimp only
    rw [vrc16Tick_eq_whole _ _ _ hsub]
    have hwrap : wrap = (clock && decide (r.counter = 0xFFFF)) := by simp [wrap, hsub]
    rw [hwrap]
    exact ⟨rfl, rfl, fun _ => rfl, nofun, rfl, rfl⟩
  | true =>
    dsimp only
    rw [vrc16Tick_eq_low _ _ _ hsub]
    have hwrap : wrap = (clock && decide (lowByte r.counter = 0xFF)) := by simp [wrap, hsub, lowByte_eq_ones_iff]
    rw [hwrap]
    exact ⟨rfl, rfl, nofun, fun _ => lowByteCount_toNat r.counter r.latch clock, rfl, rfl⟩

end Sys2Proof.Proofs
end

section
/-! SUPPORT. A dispatch to a sound handler reference completes (spec/40_dispatch_bus.md R122, R123, R132 and
spec/44_trampoline.md R226): O8. -/

namespace Sys2Proof.Proofs

open Sys2Proof Sys2Proof.Machine Sys2Proof.Laws

@[simp] theorem runSideEffects_bus (s : State) (l : List SideEffect) (sp : Space) :
    (s.runSideEffects l).bus sp = s.bus sp := by
  rw [runSideEffects_eq, setFamily_bus]

@[simp] theorem runSideEffects_resp (s : State) (l : List SideEffect) : (s.runSideEffects l).resp = s.resp := by
  rw [runSideEffects_eq, setFamily_resp]

theorem answersByte_respond_byte (s : State) (v : Byte) : answersByte (s.respond (.byte v)).resp v := by
  obtain ⟨w, hw, hlow⟩ := responseOf_byte (Config.freeResp s.answers) v
  exact ⟨w, congrArg some hw, hlow⟩

/-- Whatever the kind, the byte it leaves on the output is both answered and kept as the last bus value (R122). -/
theorem readThrough_answersByte_last (s : State) (sp : Space) (kind : Byte → State → State × Byte) :
    ∃ v, answersByte (s.readThrough sp kind).resp v ∧ ((s.readThrough sp kind).bus sp).last = v :=
  ⟨(kind (s.bus sp).last s).2, answersByte_respond_byte _ _, by simp [State.readThrough]⟩

/-- The chain of a sound reference ends within the fuel, so the read completes (R226). -/
theorem dispatchRead_completes {s : State} (hs : s.trampsOk) (sp : Space) {h : ReadRef}
    (hok : readRefOk s.tramp s.tramp.length h) :
    ∃ t v, dispatchRead h sp s = .next t ∧ answersByte t.resp v ∧ (t.bus sp).last = v := by
  obtain ⟨⟨ses, fn, param⟩, -, hres⟩ := resolveRead_total hs.2 _ h hok
  obtain ⟨v, hv⟩ := readThrough_answersByte_last (s.runSideEffects ses) sp (runRead fn sp param)
  exact ⟨_, v, by rw [dispatchRead, hres _ le_rfl], hv⟩

/-- A write dispatch completes likewise, and no side effect or write kind touches the last bus value or the response
(R123, R226). -/
theorem dispatchWrite_completes {s : State} (hs : s.trampsOk) (sp : Space) (v : Byte) {h : WriteRef}
    (hok : writeRefOk s.tramp s.tramp.length h) :
    ∃ t, dispatchWrite h sp v s = .next t ∧ t.resp = s.resp ∧ (t.bus sp).last = v := by
  obtain ⟨⟨ses, fn, param⟩, -, hres⟩ := resolveWrite_total hs.2 _ h hok
  obtain ⟨hlast, hresp⟩ := runWrite_last fn sp param v ((s.setLast sp v).runSideEffects ses) sp
  refine ⟨_, by rw [dispatchWrite, hres _ le_rfl]; rfl, hresp.trans ?_, hlast.trans ?_⟩
  · rw [runSideEffects_resp, setLast_resp]
  · rw [runSideEffects_bus, setLast_bus, if_pos rfl]

/-- Settles O8: the entry of an access and the reference a trampoline forwards through are sound, so each of the four is
a dispatch that completes. -/
theorem accessAlwaysCompletes : Obligations.AccessAlwaysCompletes := by
  intro s hs
  refine ⟨fun sp a => ?_, fun sp a v => ?_, fun c k se h o hk => ?_, fun c k se h o hk => ?_⟩
  · exact dispatchRead_completes hs sp (readEntry_ok hs sp a)
  · exact dispatchWrite_completes hs sp v (writeEntry_ok hs sp a)
  · exact dispatchRead_completes hs c.sp (tramp_rd_ok hk se c.param)
  · exact dispatchWrite_completes hs c.sp c.v (tramp_wr_ok hk se c.param)

end Sys2Proof.Proofs
end

section
/-! SUPPORT. Encoding (spec/30_encoding.md): O1, that the decoder reads back every word the encoder writes; O3, that
a word R105's table lets pass decodes; O4, the address classes of the indexed variant; O2, the spec's own words. -/

namespace Sys2Proof.Proofs

open Sys2Proof Sys2Proof.Machine Sys2Proof.Laws

/-! ### Reading back a whole word (O1) -/

theorem decodeCall_packCall_read {hd : BitVec 32} {fn : ReadKind} (hhd : kindOfDescriptor hd = .ok (.read fn))
    (sp : Space) (param : Addr) (v : Byte) (k : Nat) :
    decodeCall (packCall hd sp param v k) = .ok (readInstr ⟨sp, param⟩ k fn) := by
  obtain ⟨hsp, -, hparam, hlow⟩ := packCall_fields hd sp param v
  simp only [decodeCall, packCall_low, packCall_high, hsp, hparam, hlow, spaceOfByte_spaceCode, hhd]
  rfl

theorem decodeCall_packCall_write {hd : BitVec 32} {fn : WriteKind} (hhd : kindOfDescriptor hd = .ok (.write fn))
    (sp : Space) (param : Addr) (v : Byte) (k : Nat) :
    decodeCall (packCall hd sp param v k) = .ok (writeInstr ⟨sp, param, v⟩ k fn) := by
  obtain ⟨hsp, hv, hparam, hlow⟩ := packCall_fields hd sp param v
  simp only [decodeCall, packCall_low, packCall_high, hsp, hv, hparam, hlow, spaceOfByte_spaceCode, hhd]
  rfl

theorem decode_encodeRead (c : ReadCall) (k : Nat) (fn : ReadKind) :
    decode (encodeRead c k fn) = .ok (readInstr c k fn) :=
  decodeCall_packCall_read (kindOfDescriptor_read fn) c.sp c.param 0 k

theorem decode_encodeWrite (c : WriteCall) (k : Nat) (fn : WriteKind) :
    decode (encodeWrite c k fn) = .ok (writeInstr c k fn) :=
  decodeCall_packCall_write (kindOfDescriptor_write fn) c.sp c.param c.v k

theorem installOf_of_ok {mk : Space → Addr → Kind → Addr → Instr} {f : CommandFields} {sp : Space} {hd : Kind}
    (hsp : spaceOfByte f.sp = .ok sp) (hhd : kindOfDescriptor f.hd = .ok hd) :
    installOf mk f = .ok (mk sp f.a hd f.b) := by
  simp only [installOf, hsp, hhd]
  rfl

theorem installOf_encode (mk : Space → Addr → Kind → Addr → Instr) (op : Byte) (sp : Space) (a : Addr) (hd : Kind)
    (param : Addr) : installOf mk ⟨op, spaceCode sp, a, param, 0, encodeKind hd⟩ = .ok (mk sp a hd param) :=
  installOf_of_ok (spaceOfByte_spaceCode sp) (kindOfDescriptor_kind hd)

/-- The 24 bits of a side effect are kind 0, window and state code (R104). -/
theorem decodeSideEffect_pack (window state : Byte) :
    decodeSideEffect (0#8 ++ (window ++ state)) = .ok (.seLatch window state) := by
  simp only [decodeSideEffect]
  rw [extract_append_high _ _ 16 8 (by decide), extract_append_low _ _ 8 8 (by decide),
    extract_append_high _ _ 8 8 (by decide), extract_append_low _ _ 0 8 (by decide),
    extract_append_low _ _ 0 8 (by decide)]
  simp only [Nat.sub_self, extract_all]
  rfl

/-- Settles O1: a command is read back field by field, a handler kind through its invocation word, a side effect
through its 24 bits. -/
theorem decodeInvertsEncode : Obligations.DecodeInvertsEncode := by
  intro i
  cases i with
  | rd sp a | wr sp a v =>
    rw [encode, decode_encodeFields]
    simp [commandOfFields, Except.map]
  | setrd sp a hd param | setwr sp a hd param | wraprd sp a hd param | wrapwr sp a hd param =>
    exact (decode_encodeFields _).trans (installOf_encode _ _ sp a hd param)
  | mirroraddr _ m | applymirror m =>
    rw [encode, decode_encodeFields]
    simp [commandOfFields, mirrorOfByte_code, Except.map]
  | seLatch window state =>
    simp only [encode, decode, BitVec.ofNat_toNat, BitVec.setWidth_eq]
    exact decodeSideEffect_pack window state
  | rdOpen c | rdExternal c | rdStore c | rdPrg c | rdChr c | rdChrA12 c | rdChrLatched c | rdNtDyn c | rdTramp c =>
    exact decode_encodeRead c _ _
  | wrIgnore c | wrExternal c | wrStore c | wrChr c | wrChrA12 c | wrNtDyn c | wrDirect c | wrShift c | wrSelect c
  | wrData c | wrMirror c | wrM3Latch c | wrM3Reload c | wrM3Disable c | wrM3Enable c | wrVrcLatch c
  | wrVrcLatchLo c | wrVrcLatchHi c | wrVrcCtrl c | wrVrcAck c | wrTramp c =>
    exact decode_encodeWrite c _ _
  | init | applymap | tick | reset | savebatt | extaudio | postaudio | teardown | normbank | sanitize
  | applyctlmirror => exact decode_encodeFields _

/-! ### What R105's table lets pass decodes (O3) -/

theorem spaceOfByte_of_lt {b : Byte} (h : b.toNat < 2) : ∃ sp, spaceOfByte b = .ok sp := by
  unfold spaceOfByte
  split
  · exact ⟨_, rfl⟩
  · exact ⟨_, rfl⟩
  · simp only [imp_false] at *
    omega

theorem mirrorOfCode_of_lt {code : BitVec 3} (h : code.toNat < 5) : ∃ m, mirrorOfCode code = some m := by
  unfold mirrorOfCode
  split
  case h_6 =>
    simp only [imp_false] at *
    omega
  all_goals exact ⟨_, rfl⟩

/-- A byte below 5 has `c[7:3] = 0` and is its own mode code (R95). -/
theorem mirrorOfByte_of_lt {c : Byte} (h : c.toNat < 5) : ∃ m, mirrorOfByte c = .ok m := by
  have hhigh : c.extractLsb' 3 5 = 0#5 := by
    apply BitVec.eq_of_toNat_eq
    simp only [BitVec.extractLsb'_toNat, Nat.shiftRight_eq_div_pow, BitVec.toNat_zero]
    omega
  have hlow : (c.extractLsb' 0 3).toNat < 5 := by
    simp only [BitVec.extractLsb'_toNat, Nat.shiftRight_eq_div_pow]
    omega
  obtain ⟨m, hm⟩ := mirrorOfCode_of_lt hlow
  exact ⟨m, by simp only [mirrorOfByte, hhigh, hm, if_true]⟩

theorem f1_eq_zero_of_sideEffectFields {f1 : Byte} {f2 f3 : Nat} (h : sideEffectFields f1.toNat f2 f3 = true) :
    f1 = 0#8 :=
  BitVec.eq_of_toNat_eq (of_decide_eq_true h).1

/-- Every code of R93 and R94 names a kind; a trampoline's needs the side-effect kind 0 of R104. -/
theorem kindOfFields_of_defined {kind f1 : Byte} (f2 f3 : Byte)
    (hkind : kind.toNat ≤ 0x08 ∨ 0x80 ≤ kind.toNat ∧ kind.toNat ≤ 0x8E ∨ 0x90 ≤ kind.toNat ∧ kind.toNat ≤ 0x95)
    (hse : kind.toNat = 0x08 ∨ kind.toNat = 0x95 → f1 = 0#8) :
    ∃ hd, kindOfFields kind f1 f2 f3 = .ok hd := by
  unfold kindOfFields
  split
  case h_31 =>
    simp only [imp_false] at *
    omega
  case h_9 htramp => exact ⟨_, by rw [sideEffectOf, if_pos (hse (.inl htramp))]; rfl⟩
  case h_30 htramp => exact ⟨_, by rw [sideEffectOf, if_pos (hse (.inr htramp))]; rfl⟩
  all_goals exact ⟨_, rfl⟩

/-- A descriptor one of the four install commands may carry names a kind. -/
theorem kindOfFields_of_installable {kind f1 f2 f3 : Byte}
    (h : setrdDescriptor kind.toNat f2.toNat = true ∨ setwrDescriptor kind.toNat f1.toNat f2.toNat = true
      ∨ (kind.toNat = 0x08 ∨ kind.toNat = 0x95) ∧ sideEffectFields f1.toNat f2.toNat f3.toNat = true) :
    ∃ hd, kindOfFields kind f1 f2 f3 = .ok hd := by
  rcases h with h | h | ⟨hkind, hse⟩
  · simp only [setrdDescriptor, Bool.and_eq_true, decide_eq_true_eq] at h
    exact kindOfFields_of_defined f2 f3 (by omega) (by omega)
  · simp only [setwrDescriptor, Bool.and_eq_true, Bool.or_eq_true, decide_eq_true_eq] at h
    exact kindOfFields_of_defined f2 f3 (by omega) (by omega)
  · exact kindOfFields_of_defined f2 f3 (by omega) fun _ => f1_eq_zero_of_sideEffectFields hse

/-- Nothing but what R105 names is refused: one case per operation (R91), by the fields it uses. -/
theorem decodeCommand_of_not_malformed {w : BitVec 88} (h : malformed w = false) :
    ∃ i, decodeCommand w = .ok i ∧ i.wellFormed = true := by
  unfold decodeCommand commandOfFields
  split
  case h_20 =>
    exfalso
    have hop : opDefined (fieldsOf w).op.toNat = true := by
      simp only [malformed, Bool.or_eq_false_iff, Bool.not_eq_false', and_assoc] at h
      exact h.1
    simp only [opDefined, Bool.or_eq_true, decide_eq_true_eq] at hop
    simp only [imp_false] at *
    omega
  -- `RD`, `WR`
  case h_9 hop | h_10 hop =>
    change (w.extractLsb' 80 8).toNat = _ at hop
    simp [malformed, opDefined, hop, -BitVec.extractLsb'_toNat] at h
    obtain ⟨sp, hsp⟩ := spaceOfByte_of_lt (b := (fieldsOf w).sp) (Nat.lt_succ_of_le h)
    exact ⟨_, by rw [hsp]; rfl, rfl⟩
  -- `SETRD`, `SETWR`, `WRAPRD`, `WRAPWR`
  case h_11 hop | h_12 hop | h_13 hop | h_14 hop =>
    change (w.extractLsb' 80 8).toNat = _ at hop
    simp [malformed, opDefined, hop, -BitVec.extractLsb'_toNat] at h
    obtain ⟨hspace, hdesc⟩ := h
    obtain ⟨sp, hsp⟩ := spaceOfByte_of_lt (b := (fieldsOf w).sp) (Nat.lt_succ_of_le hspace)
    obtain ⟨hd, hhd⟩ := kindOfFields_of_installable (kind := w.extractLsb' 24 8) (f1 := w.extractLsb' 16 8)
      (f2 := w.extractLsb' 8 8) (f3 := w.extractLsb' 0 8) (by simp [hdesc, -BitVec.extractLsb'_toNat])
    obtain ⟨hsetrd, hsetwr, hwraprd, hwrapwr⟩ := installable_of_kindOfFields hhd
    refine ⟨_, installOf_of_ok hsp ((kindOfDescriptor_fieldsOf w).trans hhd), ?_⟩
    simp [Instr.wellFormed, hsetrd, hsetwr, hwraprd, hwrapwr, hdesc, -BitVec.extractLsb'_toNat]
  -- `MIRRORADDR`, `APPLYMIRROR`
  case h_17 hop | h_18 hop =>
    change (w.extractLsb' 80 8).toNat = _ at hop
    simp [malformed, opDefined, hop, -BitVec.extractLsb'_toNat] at h
    obtain ⟨m, hm⟩ := mirrorOfByte_of_lt (c := (fieldsOf w).c) h
    exact ⟨_, by rw [hm]; rfl, rfl⟩
  -- the operations whose fields are never malformed
  all_goals exact ⟨_, rfl, rfl⟩

/-- Settles O3: nothing R105 names runs, and nothing else is refused. -/
theorem malformedWordsAreExactlyThoseNamed : Obligations.MalformedWordsAreExactlyThoseNamed :=
  fun _ => ⟨decodeCommand_of_not_malformed, fun ⟨_, hdec, hwf⟩ => not_malformed_of_decodeCommand hdec hwf⟩

/-! ### Register address classes (O4) -/

/-- Bits 15:13 and bit 0 of an address decode, bits 12:1 do not (R101). -/
theorem and_classMask (a : Addr) : a &&& Config.classMask = (a >>> 13) <<< 13 ||| (a &&& 1) := by
  ext i hi
  interval_cases i <;> simp [Config.classMask]

theorem and_classMask_toNat (a : Addr) :
    (a &&& Config.classMask).toNat = a.toNat / 0x2000 * 0x2000 + a.toNat % 2 := by
  have hlow : (a &&& 1).toNat = a.toNat % 2 := Nat.and_one_is_mod _
  rw [and_classMask, BitVec.toNat_or, BitVec.toNat_shiftLeft, BitVec.toNat_ushiftRight, hlow,
    Nat.shiftRight_eq_div_pow, Nat.mod_eq_of_lt (by rw [Nat.shiftLeft_eq]; omega),
    ← Nat.shiftLeft_add_eq_or_of_lt (by omega), Nat.shiftLeft_eq]

theorem and_classMask_eq {a : Addr} {block bit : Nat} (hblock : a.toNat / 0x2000 = block) (hbit : a.toNat % 2 = bit) :
    a &&& Config.classMask = BitVec.ofNat 16 (block * 0x2000 + bit) := by
  apply BitVec.eq_of_toNat_eq
  rw [and_classMask_toNat, hblock, hbit, BitVec.toNat_ofNat]
  omega

/-- The indexed variant's rows are the address classes: the entry is the kind of the class. -/
theorem mapCpuWrite_vIndexed {alt : Bool} {a : Addr} {k : WriteKind} (h : addressClass a = some k) :
    mapCpuWrite (vIndexed alt) a.toNat = ⟨k, writeCtx k, a⟩ := by
  obtain ⟨e, he, rfl⟩ := Option.map_eq_some_iff.1 h
  simp only [mapCpuWrite, vIndexed, List.find?_map, BitVec.ofNat_toNat, BitVec.setWidth_eq]
  simp only [Function.comp_def, he, Option.map_some]

/-- Settles O4: the class of an address is one of eight, by its 8 KB block and bit 0. -/
theorem addressClassSelectsTheWriteKind : Obligations.AddressClassSelectsTheWriteKind := by
  intro alt a ha
  have hblock : a.toNat / 0x2000 = 4 ∨ a.toNat / 0x2000 = 5 ∨ a.toNat / 0x2000 = 6 ∨ a.toNat / 0x2000 = 7 := by omega
  have hbit : a.toNat % 2 = 0 ∨ a.toNat % 2 = 1 := by omega
  rcases hblock with hblock | hblock | hblock | hblock <;> rcases hbit with hbit | hbit <;>
    (rw [hblock, hbit]
     exact mapCpuWrite_vIndexed (by rw [addressClass, and_classMask_eq hblock hbit]; rfl))

/-! ### The spec's words (O2) -/

theorem decodeCommand_of_encode {w : BitVec 88} {i : Instr} (h : encode i = ⟨.command, w.toNat⟩) :
    decodeCommand w = .ok i := by
  simpa [h, decode] using decodeInvertsEncode i

/-- Settles O2: each word of a command is the one the encoder writes for its instruction; the others are decoded. -/
theorem specWordsDecode : Obligations.SpecWordsDecode :=
  ⟨decodeCommand_of_encode rfl, decodeCommand_of_encode rfl, decodeCommand_of_encode rfl, decodeCommand_of_encode rfl,
    decodeCommand_of_encode rfl, decodeCommand_of_encode rfl, decodeCommand_of_encode rfl, rfl, rfl, rfl, rfl⟩

end Sys2Proof.Proofs
end

section
/-! SUPPORT. Bus transactions of the dispatch bus (spec/40_dispatch_bus.md R120 to R131): an access is the kind of its
entry (O7), the kinds that touch bus-owned state only (O11, O12, O13), and when an install completes (O25). -/

namespace Sys2Proof.Proofs

open Sys2Proof Sys2Proof.Machine Sys2Proof.Laws

/-! ### An access and the kinds of the bus -/

/-- Settles O7: the entry is sound, so its instruction and the access are one dispatch. -/
theorem accessRunsTheKindOfItsEntry : Obligations.AccessRunsTheKindOfItsEntry := by
  intro s sp a hs
  exact ⟨(exec_readInstr s sp _ (readEntry_ok hs sp a)).symm,
    fun v => (exec_writeInstr s sp v _ (writeEntry_ok hs sp a)).symm⟩

/-- Writing back the last bus value changes nothing. -/
theorem setLast_last (s : State) (sp : Space) : s.setLast sp (s.bus sp).last = s := by
  cases sp <;> rfl

/-- A read whose kind leaves the output and the state answers the last bus value and changes nothing else (R122). -/
theorem readThrough_of_unchanged {s : State} {sp : Space} {kind : Byte → State → State × Byte}
    (h : kind (s.bus sp).last s = (s, (s.bus sp).last)) :
    s.readThrough sp kind = s.respond (.byte (s.bus sp).last) := by
  simp only [State.readThrough, h, setLast_last]

/-- Settles O11: what each kind leaves on the output, inside the store's extent and past its end. -/
theorem busReadsAnswer : Obligations.BusReadsAnswer := by
  intro c s
  refine ⟨?_, ?_, fun hlt => ?_, fun hle => ?_⟩
  · exact congrArg Host.Outcome.next (readThrough_of_unchanged rfl)
  · rfl
  · have hkind : kindRdStore c.sp c.param (s.bus c.sp).last s = (s, s.storeByte c.sp c.param.toNat) := by
      rw [kindRdStore, if_pos hlt]
    simp only [exec, execRdStore, State.readThrough, hkind]
  · have hkind : kindRdStore c.sp c.param (s.bus c.sp).last s = (s, (s.bus c.sp).last) := by
      rw [kindRdStore, if_neg (Nat.not_lt.2 hle)]
    exact congrArg Host.Outcome.next (readThrough_of_unchanged hkind)

/-- Settles O12: such a write runs no effect after the last bus value is set (R123). -/
theorem ignoredWritesSetTheLastBusValue : Obligations.IgnoredWritesSetTheLastBusValue :=
  fun _ _ => ⟨rfl, rfl⟩

/-- The bytes of the stores after a store write (R131). -/
theorem storeByte_kindWrStore (sp : Space) (p : Addr) (v : Byte) (s : State) (sp' : Space) (i : Nat) :
    (kindWrStore sp p v s).storeByte sp' i
      = if sp' = sp ∧ i = p.toNat ∧ p.toNat < spaceSize sp then v else s.storeByte sp' i := by
  unfold kindWrStore
  by_cases hlt : p.toNat < spaceSize sp
  · simp only [hlt, if_true, and_true, storeByte_putStore]
  · simp only [hlt, if_false, and_false]

/-- Settles O13: the write is `kindWrStore` after the last bus value is set; it changes one store and nothing else. -/
theorem storeWritePutsOneByte : Obligations.StoreWritePutsOneByte := by
  intro c s
  obtain ⟨m, hchanges⟩ := kindWrStore_changes c.sp c.param c.v (s.setLast c.sp c.v)
  refine ⟨kindWrStore c.sp c.param c.v (s.setLast c.sp c.v), rfl, fun sp i => ?_, fun i => ?_, ?_⟩
  · rw [storeByte_kindWrStore, storeByte_congr (setLast_store s c.sp c.v sp)]
  · exact chrRamByte_congr (by rw [hchanges, setBus_chrRam, setLast_chrRam]) i
  · rw [hchanges]
    cases c.sp <;> rfl

/-! ### Installing a handler -/

theorem whenLive_next_iff {s t : State} {r : Result} : s.whenLive r = .next t ↔ s.live = true ∧ r = .next t := by
  unfold State.whenLive
  cases s.live <;> simp

/-- When a `SETRD` completes, and with what state (R105, R120, R133). -/
theorem execSetrd_next_iff {sp : Space} {a : Addr} {fn : ReadKind} {p : Addr} {s t : State} :
    execSetrd sp a (.read fn) p s = .next t
      ↔ (Kind.read fn).okSetrd = true ∧ (readCtx fn = .none ∨ s.live = true)
        ∧ s.putReadEntry sp a ⟨fn, readCtx fn, p⟩ = t := by
  unfold execSetrd
  by_cases hok : (Kind.read fn).okSetrd = true
  · by_cases hctx : readCtx fn = .none
    · simp [hok, hctx]
    · simp [hok, hctx, whenLive_next_iff]
  · simp [hok]

/-- When a `SETWR` completes, and with what state (R105, R121, R133). -/
theorem execSetwr_next_iff {sp : Space} {a : Addr} {fn : WriteKind} {p : Addr} {s t : State} :
    execSetwr sp a (.write fn) p s = .next t
      ↔ (Kind.write fn).okSetwr = true ∧ (writeCtx fn = .none ∨ s.live = true)
        ∧ s.putWriteEntry sp a ⟨fn, writeCtx fn, p⟩ = t := by
  unfold execSetwr
  by_cases hok : (Kind.write fn).okSetwr = true
  · by_cases hctx : writeCtx fn = .none
    · simp [hok, hctx]
    · simp [hok, hctx, whenLive_next_iff]
  · simp [hok]

/-- Settles O25: an install that may complete overwrites the entry of its address. -/
theorem installOverwritesOneEntry : Obligations.InstallOverwritesOneEntry := by
  intro s sp a param
  refine ⟨fun fn hok hctx => ⟨_, execSetrd_next_iff.mpr ⟨hok, hctx, rfl⟩, ?_⟩,
    fun fn hok hctx => ⟨_, execSetwr_next_iff.mpr ⟨hok, hctx, rfl⟩, ?_⟩⟩
  · exact ⟨readEntry_putReadEntry s sp a _, putReadEntry_wr s sp a _, putReadEntry_tramp s sp a _,
      putReadEntry_sameOutsideTables s sp a _⟩
  · exact ⟨writeEntry_putWriteEntry s sp a _, putWriteEntry_rd s sp a _, putWriteEntry_tramp s sp a _,
      putWriteEntry_sameOutsideTables s sp a _⟩

end Sys2Proof.Proofs
end

section
/-! SUPPORT. Sound trampolines and entries no longer than their mapper (spec/40_dispatch_bus.md R133,
spec/44_trampoline.md R226, R228, spec/47_host_interface.md R360): one rule per operation on the tables, and O56 from
them. -/

namespace Sys2Proof.Proofs

open Sys2Proof Sys2Proof.Machine Sys2Proof.Laws

/-! ### Sound references -/

/-- A reference to a kind other than a trampoline is sound with the context of its kind, whatever the records (R22). -/
theorem readRefOk_of_not_tramp {fn : ReadKind} (h : fn.isTramp = false) (recs : List TrampRecord) (n : Nat) (p : Addr) :
    readRefOk recs n ⟨fn, readCtx fn, p⟩ :=
  ⟨fun _ => rfl, fun ht => nomatch h.symm.trans ht⟩

theorem writeRefOk_of_not_tramp {fn : WriteKind} (h : fn.isTramp = false) (recs : List TrampRecord) (n : Nat)
    (p : Addr) : writeRefOk recs n ⟨fn, writeCtx fn, p⟩ :=
  ⟨fun _ => rfl, fun ht => nomatch h.symm.trans ht⟩

/-- A sound reference whose context is no trampoline's stays sound when the records are dropped. -/
theorem readRefOk_of_ctx_not_tramp {recs : List TrampRecord} {n : Nat} {h : ReadRef} (hctx : ctxIsTramp h.ctx = false)
    (hh : readRefOk recs n h) (recs' : List TrampRecord) (m : Nat) : readRefOk recs' m h := by
  refine ⟨hh.1, fun ht => ?_⟩
  obtain ⟨k, -, -, hk, -, -⟩ := hh.2 ht
  rw [hk] at hctx
  nomatch hctx

theorem writeRefOk_of_ctx_not_tramp {recs : List TrampRecord} {n : Nat} {h : WriteRef} (hctx : ctxIsTramp h.ctx = false)
    (hh : writeRefOk recs n h) (recs' : List TrampRecord) (m : Nat) : writeRefOk recs' m h := by
  refine ⟨hh.1, fun ht => ?_⟩
  obtain ⟨k, -, -, hk, -, -⟩ := hh.2 ht
  rw [hk] at hctx
  nomatch hctx

/-- A row of a valid record installs no trampoline (R271). -/
theorem cpuWrites_not_tramp {v : Variant} (hv : variantValid v = true) :
    ∀ e ∈ v.cpuWrites, e.kind.isTramp = false := by
  simp only [variantValid, Bool.and_eq_true, List.all_eq_true] at hv
  obtain ⟨⟨⟨-, hcpu⟩, -⟩, -⟩ := hv
  intro e he
  have hok := hcpu e he
  simp only [cpuWriteOk, Bool.and_eq_true, Bool.not_eq_true'] at hok
  exact hok.1.2

/-- Every entry a valid record asks for is sound (R302). -/
theorem mapRead_refOk (v : Variant) (recs : List TrampRecord) (n a : Nat) :
    readRefOk recs n (mapCpuRead v a) ∧ readRefOk recs n (mapPpuRead v a) := by
  constructor
  · unfold mapCpuRead
    split <;> exact readRefOk_of_not_tramp rfl ..
  · unfold mapPpuRead
    split
    · split
      · exact readRefOk_of_not_tramp rfl ..
      · split <;> exact readRefOk_of_not_tramp rfl ..
    · exact readRefOk_of_not_tramp rfl ..

theorem mapWrite_refOk {v : Variant} (hv : variantValid v = true) (recs : List TrampRecord) (n a : Nat) :
    writeRefOk recs n (mapCpuWrite v a) ∧ writeRefOk recs n (mapPpuWrite v a) := by
  constructor
  · unfold mapCpuWrite
    split
    · next e he => exact writeRefOk_of_not_tramp (cpuWrites_not_tramp hv e (List.mem_of_find?_eq_some he)) ..
    · exact writeRefOk_of_not_tramp rfl ..
  · unfold mapPpuWrite
    split
    · split
      · exact writeRefOk_of_not_tramp rfl ..
      · split <;> exact writeRefOk_of_not_tramp rfl ..
    · exact writeRefOk_of_not_tramp rfl ..

/-! ### Every entry and record is sound -/

theorem trampsOk_congr {s t : State}
    (h : t.tramp = s.tramp ∧ ∀ sp, (t.bus sp).rd = (s.bus sp).rd ∧ (t.bus sp).wr = (s.bus sp).wr)
    (hs : s.trampsOk) : t.trampsOk := by
  obtain ⟨hrecs, htables⟩ := h
  refine ⟨fun sp => ?_, ?_⟩
  · rw [(htables sp).1, (htables sp).2, hrecs]; exact hs.1 sp
  · rw [hrecs]; exact hs.2

section Tramps

variable {s : State} (hs : s.trampsOk)
include hs

/-- With no record and no trampoline context left, what remains of a sound state is sound (R300, R302 step 1). -/
theorem trampsOk_of_no_tramps {t : State} (hrecs : t.tramp = [])
    (hrd : ∀ sp, ∀ e ∈ (t.bus sp).rd, e ∈ (s.bus sp).rd ∧ ctxIsTramp e.2.ctx = false)
    (hwr : ∀ sp, ∀ e ∈ (t.bus sp).wr, e ∈ (s.bus sp).wr ∧ ctxIsTramp e.2.ctx = false) : t.trampsOk := by
  refine ⟨fun sp => ⟨fun e he => ?_, fun e he => ?_⟩, fun k r hr => ?_⟩
  · obtain ⟨hmem, hctx⟩ := hrd sp e he
    exact readRefOk_of_ctx_not_tramp hctx ((hs.1 sp).1 e hmem) _ _
  · obtain ⟨hmem, hctx⟩ := hwr sp e he
    exact writeRefOk_of_ctx_not_tramp hctx ((hs.1 sp).2 e hmem) _ _
  · rw [hrecs] at hr
    nomatch hr

theorem dropTramps_trampsOk : s.dropTramps.trampsOk := by
  refine trampsOk_of_no_tramps hs rfl (fun sp e he => ?_) (fun sp e he => ?_)
  all_goals
    rw [dropTramps_bus] at he
    simpa [tableDropTramps] using he

theorem releaseEntries_trampsOk : s.releaseEntries.trampsOk := by
  have hctx : ∀ c : Ctx, ctxRefersToMapper c = false → ctxIsTramp c = false := by
    intro c hc
    cases c with
    | tramp k => nomatch hc
    | _ => rfl
  refine trampsOk_of_no_tramps hs rfl (fun sp e he => ?_) (fun sp e he => ?_)
  all_goals
    rw [releaseEntries_bus] at he
    simp only [tableRelease, List.mem_filter, Bool.not_eq_true'] at he
    exact ⟨he.1, hctx _ he.2⟩

theorem putReadEntry_trampsOk {sp : Space} {a : Addr} {h : ReadRef} (hh : readRefOk s.tramp s.tramp.length h) :
    (s.putReadEntry sp a h).trampsOk := by
  refine ⟨fun sp' => ?_, by rw [putReadEntry_tramp]; exact hs.2⟩
  rw [putReadEntry_tramp, putReadEntry_wr, putReadEntry_bus]
  refine ⟨fun e he => ?_, (hs.1 sp').2⟩
  split at he
  · rcases mem_tablePut he with he | rfl
    · exact (hs.1 sp).1 e he
    · exact hh
  · exact (hs.1 sp').1 e he

theorem putWriteEntry_trampsOk {sp : Space} {a : Addr} {h : WriteRef} (hh : writeRefOk s.tramp s.tramp.length h) :
    (s.putWriteEntry sp a h).trampsOk := by
  refine ⟨fun sp' => ?_, by rw [putWriteEntry_tramp]; exact hs.2⟩
  rw [putWriteEntry_tramp, putWriteEntry_rd, putWriteEntry_bus]
  refine ⟨(hs.1 sp').1, fun e he => ?_⟩
  split at he
  · rcases mem_tablePut he with he | rfl
    · exact (hs.1 sp).2 e he
    · exact hh
  · exact (hs.1 sp').2 e he

theorem fillEntries_trampsOk {sp : Space} {lo n : Nat} {rd : Nat → ReadRef} {wr : Nat → WriteRef}
    (hrd : ∀ a, readRefOk s.tramp s.tramp.length (rd a)) (hwr : ∀ a, writeRefOk s.tramp s.tramp.length (wr a)) :
    (s.fillEntries sp lo n rd wr).trampsOk := by
  refine ⟨fun sp' => ?_, by rw [fillEntries_tramp]; exact hs.2⟩
  rw [fillEntries_tramp, fillEntries_bus]
  split
  · refine ⟨fun e he => ?_, fun e he => ?_⟩
    · rcases mem_tableFill he with he | ⟨_, _, he, _⟩
      · exact (hs.1 sp).1 e he
      · rw [he]; exact hrd e.1
    · rcases mem_tableFill he with he | ⟨_, _, he, _⟩
      · exact (hs.1 sp).2 e he
      · rw [he]; exact hwr e.1
  · exact hs.1 sp'

theorem addRecord_trampsOk {p : PrevRef} (hp : prevRefOk s.tramp s.tramp.length p) : (s.addRecord p).trampsOk := by
  have hlen : s.tramp.length ≤ (s.tramp ++ [(⟨p, .mapper⟩ : TrampRecord)]).length := by simp
  exact ⟨fun sp => ⟨fun e he => readRefOk_append _ (readRefOk_mono hlen ((hs.1 sp).1 e he)),
      fun e he => writeRefOk_append _ (writeRefOk_mono hlen ((hs.1 sp).2 e he))⟩,
    records_append hs.2 p .mapper hp⟩

theorem wrapWrite_trampsOk (sp : Space) (a : Addr) (se : SideEffect) (p : Addr) : (s.wrapWrite sp a se p).trampsOk :=
  putWriteEntry_trampsOk (addRecord_trampsOk (p := .wr _) hs (writeEntry_ok hs sp a))
    (tramp_wr_ok (h := s.writeEntry sp a) (o := .mapper) (by simp) se p)

theorem mapPrgRam_trampsOk : s.mapPrgRam.trampsOk := by
  unfold State.mapPrgRam
  split
  · exact fillEntries_trampsOk hs (fun _ => readRefOk_of_not_tramp rfl ..) (fun _ => writeRefOk_of_not_tramp rfl ..)
  · exact hs

theorem mapNametables_trampsOk : s.mapNametables.trampsOk := by
  unfold State.mapNametables
  split <;> exact fillEntries_trampsOk hs (fun _ => readRefOk_of_not_tramp rfl ..)
    (fun _ => writeRefOk_of_not_tramp rfl ..)

theorem mapWindows_trampsOk (hv : variantValid s.params.variant = true) : s.mapWindows.trampsOk :=
  fillEntries_trampsOk
    (fillEntries_trampsOk hs (fun a => (mapRead_refOk _ _ _ a).1) (fun a => (mapWrite_refOk hv _ _ a).1))
    (fun a => (mapRead_refOk _ _ _ a).2) (fun a => (mapWrite_refOk hv _ _ a).2)

theorem mapWrap_trampsOk (w : Wrap) : (s.mapWrap w).trampsOk :=
  List.foldlRecOn _ _ hs fun _ ht _ _ => wrapRead_trampsOk ht _ _ _ _

theorem applyMap_trampsOk (hv : variantValid s.params.variant = true) : s.applyMap.trampsOk := by
  have hstart : (mapStart s).trampsOk := by
    obtain ⟨p, c, h⟩ := mapStart_changes s
    rw [h]
    exact dropTramps_trampsOk hs
  have hentries : (mapEntries s).trampsOk :=
    mapNametables_trampsOk (mapWindows_trampsOk (mapPrgRam_trampsOk hstart)
      (by rwa [params_of_sameOutsideTables (mapPrgRam_sameOutsideTables _), mapStart_params]))
  rw [applyMap_eq]
  exact List.foldlRecOn (motive := State.trampsOk) _ _ hentries fun _ ht w _ => mapWrap_trampsOk ht w

/-- A command with a legal descriptor installs a sound reference: `SETRD` and `SETWR` carry no trampoline (R105). -/
theorem installs_trampsOk {i : Instr} (hi : i.wellFormed = true) {t : State} (h : Installs s i t) : t.trampsOk := by
  cases h with
  | setrd sp a fn p _ =>
    obtain ⟨-, hfn⟩ := Bool.and_eq_true_iff.mp hi
    exact putReadEntry_trampsOk hs (readRefOk_of_not_tramp (by simpa using hfn) ..)
  | setwr sp a fn p _ =>
    obtain ⟨-, hfn⟩ := Bool.and_eq_true_iff.mp hi
    exact putWriteEntry_trampsOk hs (writeRefOk_of_not_tramp (by simpa using hfn) ..)
  | wraprd sp a se p _ => exact wrapRead_trampsOk hs sp a se p
  | wrapwr sp a se p _ => exact wrapWrite_trampsOk hs sp a se p
  | applymirror | applyctlmirror =>
    exact fillEntries_trampsOk hs (fun _ => readRefOk_of_not_tramp rfl ..) (fun _ => writeRefOk_of_not_tramp rfl ..)

theorem completes_trampsOk (hv : variantValid s.params.variant = true) {i : Instr} (hi : i.wellFormed = true)
    {t : State} (h : Completes s i t) : t.trampsOk := by
  rcases tables_cases h with hsame | rfl | rfl | rfl | h
  · exact trampsOk_congr hsame hs
  · rw [initWithRom_eq]
    exact releaseEntries_trampsOk hs
  · exact applyMap_trampsOk hs hv
  · exact releaseEntries_trampsOk hs
  · exact installs_trampsOk hs hi h

end Tramps

/-! ### Without a live mapper no entry refers to it -/

theorem lifetimeOk_of_live {s : State} (h : s.live = true) : s.lifetimeOk :=
  fun hdead => nomatch h.symm.trans hdead

theorem live_congr {s t : State} (h : t.phase = s.phase) : t.live = s.live := by
  rw [State.live, h, State.live]

theorem lifetimeOk_congr {s t : State} (hphase : t.phase = s.phase)
    (htables : ∀ sp, (t.bus sp).rd = (s.bus sp).rd ∧ (t.bus sp).wr = (s.bus sp).wr) (hs : s.lifetimeOk) :
    t.lifetimeOk := by
  intro hdead sp
  rw [(htables sp).1, (htables sp).2]
  exact hs (live_congr hphase ▸ hdead) sp

/-- A released table refers to no mapper, whatever the phase (R308). -/
theorem releaseEntries_ctx (s : State) (sp : Space) :
    (∀ e ∈ (s.releaseEntries.bus sp).rd, e.2.ctx = .none)
    ∧ ∀ e ∈ (s.releaseEntries.bus sp).wr, e.2.ctx = .none := by
  simp only [releaseEntries_bus, tableRelease, List.mem_filter, ctxRefersToMapper_eq, Bool.not_not, decide_eq_true_eq]
  exact ⟨fun _ he => he.2, fun _ he => he.2⟩

section Lifetime

variable {s : State} (hs : s.lifetimeOk)
include hs

theorem putReadEntry_lifetimeOk {sp : Space} {a : Addr} {h : ReadRef} (hh : h.ctx = .none ∨ s.live = true) :
    (s.putReadEntry sp a h).lifetimeOk := by
  intro hdead sp'
  rw [live_congr (putReadEntry_phase s sp a h)] at hdead
  rw [putReadEntry_wr, putReadEntry_bus]
  refine ⟨fun e he => ?_, (hs hdead sp').2⟩
  split at he
  · rcases mem_tablePut he with he | rfl
    · exact (hs hdead sp).1 e he
    · exact hh.resolve_right (by simp [hdead])
  · exact (hs hdead sp').1 e he

theorem putWriteEntry_lifetimeOk {sp : Space} {a : Addr} {h : WriteRef} (hh : h.ctx = .none ∨ s.live = true) :
    (s.putWriteEntry sp a h).lifetimeOk := by
  intro hdead sp'
  rw [live_congr (putWriteEntry_phase s sp a h)] at hdead
  rw [putWriteEntry_rd, putWriteEntry_bus]
  refine ⟨(hs hdead sp').1, fun e he => ?_⟩
  split at he
  · rcases mem_tablePut he with he | rfl
    · exact (hs hdead sp).2 e he
    · exact hh.resolve_right (by simp [hdead])
  · exact (hs hdead sp').2 e he

/-- `APPLYMIRROR` installs kinds of the bus only, so no phase shuts it out (R162, R309). -/
theorem applyMirror_lifetimeOk (mode : MirrorMode) : (s.applyMirror mode).lifetimeOk := by
  intro hdead sp
  rw [State.applyMirror, live_congr (fillEntries_phase ..)] at hdead
  rw [State.applyMirror, fillEntries_bus]
  split
  · refine ⟨fun e he => ?_, fun e he => ?_⟩
    · rcases mem_tableFill he with he | ⟨_, _, he, _⟩
      · exact (hs hdead .ppu).1 e he
      · rw [he]
    · rcases mem_tableFill he with he | ⟨_, _, he, _⟩
      · exact (hs hdead .ppu).2 e he
      · rw [he]
  · exact hs hdead sp

end Lifetime

/-- A wrap completes only where the mapper is live (R309). -/
theorem live_of_wraprd {sp : Space} {a : Addr} {hd : Kind} {p : Addr} {s t : State}
    (h : execWraprd sp a hd p s = .next t) : s.live = true := by
  unfold execWraprd at h
  split at h
  · split at h
    · exact (whenLive_next_iff.mp h).1
    · nomatch h
  · nomatch h

theorem live_of_wrapwr {sp : Space} {a : Addr} {hd : Kind} {p : Addr} {s t : State}
    (h : execWrapwr sp a hd p s = .next t) : s.live = true := by
  unfold execWrapwr at h
  split at h
  · split at h
    · exact (whenLive_next_iff.mp h).1
    · nomatch h
  · nomatch h

/-- Of the nine instructions that write the tables, `INIT` and `APPLYMAP` leave the mapper live, `TEARDOWN` releases
every entry, and the others install a reference to the mapper only where it is live (R133, R309). -/
theorem exec_lifetimeOk {i : Instr} {s t : State} (hs : s.lifetimeOk) (h : exec i s = .next t) : t.lifetimeOk := by
  have hframe := completes_frame (exec_completes h)
  cases i
  case init =>
    simp only [exec, execInit] at h
    split at h
    · nomatch h
    · cases h; exact lifetimeOk_of_live rfl
  case applymap => cases whenLive_next h; exact lifetimeOk_of_live rfl
  case teardown => cases h; exact fun _ => releaseEntries_ctx s
  case setrd sp a hd p =>
    cases hd with
    | write fn => nomatch h
    | read fn =>
      obtain ⟨-, hctx, rfl⟩ := execSetrd_next_iff.mp h
      exact putReadEntry_lifetimeOk hs hctx
  case setwr sp a hd p =>
    cases hd with
    | read fn => nomatch h
    | write fn =>
      obtain ⟨-, hctx, rfl⟩ := execSetwr_next_iff.mp h
      exact putWriteEntry_lifetimeOk hs hctx
  case wraprd => exact lifetimeOk_of_live ((live_congr (hframe.phase rfl)).trans (live_of_wraprd h))
  case wrapwr => exact lifetimeOk_of_live ((live_congr (hframe.phase rfl)).trans (live_of_wrapwr h))
  case applymirror mode => cases h; exact applyMirror_lifetimeOk hs mode
  case applyctlmirror => exact lifetimeOk_of_live ((live_congr (hframe.phase rfl)).trans (whenLive_next_iff.mp h).1)
  all_goals exact lifetimeOk_congr (hframe.phase rfl) (hframe.tables rfl).2 hs

/-! ### O56 -/

/-- What the port hands over to run is a well-formed instruction of a valid record, in the accepted state (R105,
R271). -/
theorem accept_of_fetch_run {s u : State} {i : Instr} (h : fetch s = .run i u) :
    variantValid s.params.variant = true ∧ i.wellFormed = true ∧ ∃ e rest, u = s.accept e rest := by
  unfold fetch at h
  split at h
  · nomatch h
  · next e rest _ =>
    split at h
    · next hvalid =>
      split at h
      · nomatch h
      · split at h
        · split at h
          · next hwf => cases h; exact ⟨hvalid, hwf, e, rest, rfl⟩
          · nomatch h
        · nomatch h
    · nomatch h

/-- A step that answers a state is idle, or runs one instruction in the accepted state. `step_preserves` keeps of that
run its effect alone; the lifetime of entries also needs the phase the run was legal in. -/
theorem step_next_cases {s t : State} (h : step s = .next t) :
    t = s ∨ ∃ i e rest, variantValid s.params.variant = true ∧ i.wellFormed = true
      ∧ exec i (s.accept e rest) = .next t := by
  unfold step at h
  split at h
  · cases h; exact .inl rfl
  · nomatch h
  · next i u hrun =>
    obtain ⟨hvalid, hwf, e, rest, rfl⟩ := accept_of_fetch_run hrun
    exact .inr ⟨i, e, rest, hvalid, hwf, h⟩

/-- Settles O56: taking a command leaves the tables, the records and the phase, and the instruction keeps both parts. -/
theorem trampolinesStaySound : Obligations.TrampolinesStaySound := by
  intro s t htramps hlifetime h
  rcases step_next_cases h with rfl | ⟨i, e, rest, hvalid, hwf, hexec⟩
  · exact ⟨htramps, hlifetime⟩
  · have htramps' : (s.accept e rest).trampsOk := htramps
    have hlifetime' : (s.accept e rest).lifetimeOk := hlifetime
    exact ⟨completes_trampsOk htramps' hvalid hwf (exec_completes hexec), exec_lifetimeOk hlifetime' hexec⟩

end Sys2Proof.Proofs
end

section
/-! SUPPORT. Bank registers and windows (spec/41_bank_registers.md R140 to R148, spec/43_irq_counters.md R200, R201):
what a window reads (O15, O16), the byte of CHR-RAM a window write reaches (O18), the answer of `NORMBANK` (O19) and
`SANITIZE` (O20). -/

namespace Sys2Proof.Proofs

open Sys2Proof Sys2Proof.Machine Sys2Proof.Laws

/-! ### Reading a window -/

/-- Within the sequence the byte is there, so the default is not taken (R25). -/
theorem runsAt_eq_some_getD {r : ByteRuns} {i : Nat} (h : i < runsLength r) (out : Byte) :
    runsAt r i = some ((runsAt r i).getD out) := by
  have hsome : (runsAt r i).isSome = true := (runsAt_isSome r i).trans (decide_eq_true h)
  rw [← Option.get_eq_getD (h := hsome), Option.some_get]

/-- Past the end of the sequence the default is taken (R71). -/
theorem runsAt_getD_of_le {r : ByteRuns} {i : Nat} (h : runsLength r ≤ i) (out : Byte) :
    (runsAt r i).getD out = out := by
  rw [runsAt_none r i h, Option.getD_none]

/-- Settles O15: the byte read is `readPrg` over the last bus value, inside the PRG ROM and past its end. -/
theorem prgWindowRead : Obligations.PrgWindowRead := by
  intro c slot log2 s index
  exact ⟨s.readPrg slot log2 c.param (s.bus c.sp).last, rfl, fun hlt => runsAt_eq_some_getD hlt _,
    fun hle => runsAt_getD_of_le hle _⟩

theorem readChr_of_chrRom {s : State} (h : 0 < s.chrSize) (slot : Slot) (log2 : Byte) (param : Addr) (out : Byte) :
    s.readChr slot log2 param out = (runsAt s.rom.chr (windowIndex (slotGet s.chrBank slot) log2 param)).getD out := by
  rw [State.readChr, State.chrMemAt, if_pos h]

theorem readChr_of_no_chrRom {s : State} (h : ¬ 0 < s.chrSize) (slot : Slot) (log2 : Byte) (param : Addr)
    (out : Byte) :
    s.readChr slot log2 param out
      = if windowIndex (slotGet s.chrBank slot) log2 param < Config.chrRamSize
        then s.chrRamByte (windowIndex (slotGet s.chrBank slot) log2 param) else out := by
  rw [State.readChr, State.chrMemAt, if_neg h]
  split <;> rfl

/-- What `readChr` leaves on the output is what the window reads: CHR ROM, CHR-RAM, or the last bus value (R147). -/
theorem chrWindowReads_readChr (s : State) (sp : Space) (slot : Slot) (log2 : Byte) (param : Addr) :
    chrWindowReads s sp slot log2 param (s.readChr slot log2 param (s.bus sp).last) := by
  by_cases hrom : 0 < s.chrSize
  · rw [chrWindowReads, readChr_of_chrRom hrom, State.chrMemSize, if_pos hrom]
    exact ⟨fun hle => runsAt_getD_of_le hle _, fun hlt _ => runsAt_eq_some_getD hlt _,
      fun _ hzero => absurd hzero hrom.ne'⟩
  · rw [chrWindowReads, readChr_of_no_chrRom hrom, State.chrMemSize, if_neg hrom]
    exact ⟨fun hle => if_neg hle.not_gt, fun _ hpos => absurd hpos hrom, fun hlt _ => if_pos hlt⟩

/-- A sample of A12 changes nothing a window access looks at (R193). -/
theorem readChr_a12Sample (s : State) (a : Addr) (slot : Slot) (log2 : Byte) (param : Addr) (out : Byte) :
    (s.a12Sample a).readChr slot log2 param out = s.readChr slot log2 param out := by
  obtain ⟨irq, line, calls, h⟩ := a12Sample_changes s a
  rw [h]
  rfl

/-- Settles O16: both forms read `readChr`, which the sample does not change. -/
theorem chrWindowRead : Obligations.ChrWindowRead := by
  intro c slot log2 s
  refine ⟨_, chrWindowReads_readChr s c.sp slot log2 c.param, rfl, ?_⟩
  simp only [exec, execRdChrA12, State.readThrough, kindRdChrA12, kindRdChr, readChr_a12Sample]

/-! ### Writing a window -/

/-- The byte of CHR-RAM a window access stores to, spelled out (R148). -/
theorem chrRamIndex_eq_some_iff {s : State} {slot : Slot} {log2 : Byte} {param : Addr} {i : Nat} :
    chrRamIndex s slot log2 param = some i
      ↔ s.chrSize = 0 ∧ windowIndex (slotGet s.chrBank slot) log2 param < 8192
        ∧ i = windowIndex (slotGet s.chrBank slot) log2 param := by
  simp only [chrRamIndex, Option.ite_none_right_eq_some, Option.some.injEq, and_assoc, eq_comm (a := i)]
  rfl

/-- The bytes of CHR-RAM after a window write (R148). -/
theorem chrRamByte_writeChr_eq (s : State) (slot : Slot) (log2 : Byte) (param : Addr) (v : Byte) (i : Nat) :
    (s.writeChr slot log2 param v).chrRamByte i
      = if chrRamIndex s slot log2 param = some i then v else s.chrRamByte i := by
  split
  · next h => rw [writeChr_eq, h, Option.map_some, Option.getD_some, chrRamByte_putChrRam, if_pos rfl]
  · next h => exact chrRamByte_writeChr h

/-- A window write sees the ROM, the CHR banks and CHR-RAM only: it leaves the same CHR-RAM in any state with the same
three, and nothing else changes. -/
theorem writeChr_congr {s t : State} (hrom : t.rom = s.rom) (hbank : t.chrBank = s.chrBank)
    (hram : t.chrRam = s.chrRam) (slot : Slot) (log2 : Byte) (param : Addr) (v : Byte) :
    t.writeChr slot log2 param v = { t with chrRam := (s.writeChr slot log2 param v).chrRam } := by
  have hindex : chrRamIndex t slot log2 param = chrRamIndex s slot log2 param :=
    Option.ext fun i => by simp only [chrRamIndex_eq_some_iff, State.chrSize, hrom, hbank]
  rw [writeChr_eq, writeChr_eq, hindex]
  cases chrRamIndex s slot log2 param with
  | none => simp only [Option.map_none, Option.getD_none, ← hram]
  | some i => simp only [Option.map_some, Option.getD_some, putChrRam_chrRam, ← hram]; rfl

/-- Settles O18: both forms are `writeChr`, after the last bus value and the sample, neither of which it sees. -/
theorem chrWindowWrite : Obligations.ChrWindowWrite := by
  intro c slot log2 s index
  refine ⟨(s.writeChr slot log2 c.param c.v).chrRam, ?_, ?_, fun i => ?_⟩
  · exact congrArg Host.Outcome.next (writeChr_congr (setLast_rom s c.sp c.v) (setLast_chrBank s c.sp c.v)
      (setLast_chrRam s c.sp c.v) slot log2 c.param c.v)
  · obtain ⟨irq, line, calls, h⟩ := a12Sample_changes (s.setLast c.sp c.v) c.param
    refine congrArg Host.Outcome.next (writeChr_congr ?_ ?_ ?_ slot log2 c.param c.v)
    · rw [h, setLast_rom]
    · rw [h, setLast_chrBank]
    · rw [h, setLast_chrRam]
  · exact (chrRamByte_writeChr_eq s slot log2 c.param c.v i).trans (if_congr chrRamIndex_eq_some_iff rfl rfl)

/-! ### Normalising -/

/-- Settles O19: the answer is `normalizeBank` of the signed index. -/
theorem normbankAnswer : Obligations.NormbankAnswer := by
  intro idx mem size s
  refine ⟨fun hzero => ?_, fun hsize => ?_⟩
  · rw [hzero]; rfl
  · have hpos : ¬ size.toNat = 0 := fun h => hsize (BitVec.eq_of_toNat_eq h)
    refine ⟨normalizeBank idx.toInt mem.toNat size.toNat, ?_, answersByte_respond_byte s _,
      normalizeBank_lt _ _ _, normalizeBank_none _ _ _, normalizeBank_toNat _ _ _⟩
    exact if_neg hpos

theorem exec_sanitize {s : State} (h : s.live = true) : exec .sanitize s = .next s.sanitize :=
  whenLive_next_iff.mpr ⟨h, rfl⟩

/-- Mapping every slot twice through a function that is idempotent is mapping it once. -/
theorem slotMap_idem {g : Byte → Byte} (hg : ∀ b, g (g b) = g b) (f : SlotFile) :
    slotMap g (slotMap g f) = slotMap g f :=
  slotFile_ext fun x => by rw [slotGet_slotMap, slotGet_slotMap, hg]

/-- `SANITIZE` is idempotent: the sizes it normalises by stay (R143). -/
theorem sanitize_idem (s : State) : s.sanitize.sanitize = s.sanitize := by
  have hidem : ∀ (mem size : Nat) (f : SlotFile), slotMap (fun b => normalizeBank b.toNat mem size)
      (slotMap (fun b => normalizeBank b.toNat mem size) f) = slotMap (fun b => normalizeBank b.toNat mem size) f :=
    fun mem size => slotMap_idem fun b => normalizeBank_idem b mem size
  exact congrArg₂ (fun prg chr => { s with prgBank := prg, chrBank := chr }) (hidem _ _ _) (hidem _ _ _)

/-- Settles O20: the state after is `sanitize`, slot by slot, and `sanitize` is idempotent. -/
theorem sanitizeNormalisesEverySlot : Obligations.SanitizeNormalisesEverySlot := by
  intro s hlive
  refine ⟨s.sanitize, exec_sanitize hlive, fun slot => slotGet_slotMap _ _ _, fun slot => slotGet_slotMap _ _ _,
    rfl, ?_⟩
  rw [exec_sanitize (s := s.sanitize) hlive, sanitize_idem]

end Sys2Proof.Proofs
end

section
/-! SUPPORT. Mirroring (spec/42_mirror.md): translation through the mode's table (O21), the nametable entries the two
commands install (O22, O23), the register that sets the mode (O24), and the kinds that look the mode up (O14). -/

namespace Sys2Proof.Proofs

open Sys2Proof Sys2Proof.Machine Sys2Proof.Laws

/-! ### Translation -/

/-- The row of the table a mode gives a window, as numbers (R161). -/
theorem physWindow_toNat (mode : MirrorMode) {w : BitVec 2} {n : Nat} (hw : w.toNat = n) :
    (physWindow mode w).toNat
      = match mode with
        | .horizontal => if n < 2 then 0 else 2
        | .vertical => n % 2
        | .oneScreenA => 0
        | .oneScreenB => 1
        | .fourScreen => n := by
  subst hw
  revert w
  cases mode <;> decide

/-- The window of an address is its bits 11:10 (R160). -/
theorem window_toNat (a : Addr) : (a.extractLsb' 10 2).toNat = a.toNat / 1024 % 4 := by
  rw [BitVec.extractLsb'_toNat, Nat.shiftRight_eq_div_pow]

/-- The window of a translated address is the one the table names. -/
theorem mirrorAddress_window (a : Addr) (mode : MirrorMode) :
    (mirrorAddress a mode).toNat / 1024 % 4 = (physWindow mode (a.extractLsb' 10 2)).toNat := by
  have hw := (physWindow mode (a.extractLsb' 10 2)).isLt
  rw [mirrorAddress_toNat]
  omega

/-- Translation sees bits 11:0 of an address only, so addresses that agree in them translate alike (R160). -/
theorem mirrorAddress_congr {a b : Addr} (h : a.toNat % 4096 = b.toNat % 4096) (mode : MirrorMode) :
    mirrorAddress a mode = mirrorAddress b mode := by
  have hw : a.extractLsb' 10 2 = b.extractLsb' 10 2 := by
    apply BitVec.eq_of_toNat_eq
    rw [window_toNat, window_toNat]
    omega
  apply BitVec.eq_of_toNat_eq
  rw [mirrorAddress_toNat, mirrorAddress_toNat, hw]
  omega

/-- Settles O21: the answer is `mirrorAddress`, which is `$2000`, the window of the table and the offset added up. -/
theorem mirrorTranslation : Obligations.MirrorTranslation := by
  intro a mode s
  have hlt := mirrorAddress_lt a mode
  have hsum := mirrorAddress_toNat a mode
  refine ⟨mirrorAddress a mode, rfl, rfl, by omega, by omega, by omega, ?_, ?_⟩
  · simp only [exec, execMirroraddr, mirrorAddress_idem]
  · exact (mirrorAddress_window a mode).trans (physWindow_toNat mode (window_toNat a))

/-! ### The nametable entries -/

/-- The entry of an address lies in the nametable range exactly when the address, its bits 15:14 dropped, does
(R60, R66). -/
theorem nametableEntry_iff (a : Addr) :
    (Space.ppu = .ppu ∧ Config.nametableBase ≤ entryIndex .ppu a
        ∧ entryIndex .ppu a < Config.nametableBase + Config.nametableCount)
      ↔ 0x2000 ≤ a.toNat % 16384 ∧ a.toNat % 16384 ≤ 0x3EFF :=
  (and_iff_right rfl).trans (and_congr_right fun _ => Nat.lt_succ_iff)

/-- The read half of a PPU entry after the nametables are filled. -/
theorem readEntry_fillNametables (s : State) (rd : Nat → ReadRef) (wr : Nat → WriteRef) (a : Addr) :
    (s.fillEntries .ppu Config.nametableBase Config.nametableCount rd wr).readEntry .ppu a
      = if 0x2000 ≤ a.toNat % 16384 ∧ a.toNat % 16384 ≤ 0x3EFF then rd (a.toNat % 16384)
        else s.readEntry .ppu a :=
  (readEntry_fillEntries ..).trans (if_congr (nametableEntry_iff a) rfl rfl)

/-- The write half likewise. -/
theorem writeEntry_fillNametables (s : State) (rd : Nat → ReadRef) (wr : Nat → WriteRef) (a : Addr) :
    (s.fillEntries .ppu Config.nametableBase Config.nametableCount rd wr).writeEntry .ppu a
      = if 0x2000 ≤ a.toNat % 16384 ∧ a.toNat % 16384 ≤ 0x3EFF then wr (a.toNat % 16384)
        else s.writeEntry .ppu a :=
  (writeEntry_fillEntries ..).trans (if_congr (nametableEntry_iff a) rfl rfl)

/-- Dropping bits 15:14 of an address leaves its translation as it was (R60, R160). -/
theorem mirrorAddress_ofNat_mod (a : Addr) (mode : MirrorMode) :
    mirrorAddress (BitVec.ofNat 16 (a.toNat % 16384)) mode = mirrorAddress a mode := by
  apply mirrorAddress_congr
  rw [BitVec.toNat_ofNat]
  omega

/-- Settles O22: the entries are filled with the translation of their own addresses, on the PPU bus alone. -/
theorem applyMirrorBakesTheMode : Obligations.ApplyMirrorBakesTheMode := by
  intro mode s
  refine ⟨s.applyMirror mode, rfl, fun a => ?_, fun a => ?_, rfl, rfl, rfl⟩
  · rw [State.applyMirror, readEntry_fillNametables, mirrorAddress_ofNat_mod]
  · rw [State.applyMirror, writeEntry_fillNametables, mirrorAddress_ofNat_mod]

/-- Settles O23: the entries are filled with the dynamic kinds over their own addresses, on the PPU bus alone. -/
theorem applyCtlMirrorInstallsLookups : Obligations.ApplyCtlMirrorInstallsLookups := by
  intro s hlive
  exact ⟨s.applyCtlMirror, whenLive_next_iff.mpr ⟨hlive, rfl⟩, readEntry_fillNametables s _ _,
    writeEntry_fillNametables s _ _, rfl, rfl, rfl⟩

/-! ### The mirror register -/

theorem getLsbD_zero_iff (v : Byte) : v.getLsbD 0 = true ↔ v.toNat % 2 = 1 := by
  rw [BitVec.getLsbD, Nat.testBit_zero, decide_eq_true_eq]

/-- A mirror register write of style 0 changes the mode and nothing else (R166). -/
theorem kindWrMirror_zero (v : Byte) (s : State) :
    kindWrMirror 0 v s = { s with
      mirrorMode := if s.rom.mirroring = .fourScreen then s.mirrorMode
        else if v.toNat % 2 = 1 then .horizontal else .vertical } := by
  by_cases hrom : s.rom.mirroring = .fourScreen
  · rw [kindWrMirror, if_neg fun h => h.2 hrom, if_pos hrom]
  · rw [kindWrMirror, if_pos ⟨rfl, hrom⟩, if_neg hrom]
    simp only [getLsbD_zero_iff, setMirror_eq]
    split <;> rfl

/-- Settles O24: the write is `kindWrMirror` after the last bus value, and bit 0 is the byte's parity. -/
theorem mirrorWriteSetsTheMode : Obligations.MirrorWriteSetsTheMode := by
  intro c s
  refine ⟨_, congrArg Host.Outcome.next (kindWrMirror_zero c.v (s.setLast c.sp c.v)), ?_⟩
  rw [setLast_rom, setLast_mirrorMode]
  refine ⟨fun hrom => if_pos hrom, fun hrom heven => ?_, fun hrom hodd => ?_⟩
  · rw [if_neg hrom, if_neg (by omega)]
  · rw [if_neg hrom, if_pos hodd]

/-! ### The kinds that look the mode up -/

/-- A translated address lies inside either store (R167). -/
theorem mirrorAddress_lt_spaceSize (a : Addr) (mode : MirrorMode) (sp : Space) :
    (mirrorAddress a mode).toNat < spaceSize sp :=
  Nat.lt_of_lt_of_le (mirrorAddress_lt a mode) (by cases sp <;> decide)

/-- Settles O14: both access the byte at `mirrorAddress` of `param` in the mode of the state; setting the last bus value
first changes neither the mode nor a byte. -/
theorem dynamicNametableAccess : Obligations.DynamicNametableAccess := by
  intro s
  refine ⟨fun c => rfl, fun c => ⟨kindWrNtDyn c.sp c.param c.v (s.setLast c.sp c.v), rfl,
    mirrorAddress_lt_spaceSize _ _ _, fun sp i => ?_, fun i => ?_, ?_⟩⟩
  · rw [kindWrNtDyn, storeByte_putStore, setLast_mirrorMode, storeByte_congr (setLast_store s c.sp c.v sp)]
  · rw [kindWrNtDyn]
    exact chrRamByte_congr ((putStore_chrRam _ _ _ _).trans (setLast_chrRam _ _ _)) i
  · cases c.sp <;> rfl

end Sys2Proof.Proofs
end

section
/-! SUPPORT. Writes to the counters' registers (spec/43_irq_counters.md R180 to R182, R186, R198, R199): O38 to O41. -/

namespace Sys2Proof.Proofs

open Sys2Proof Sys2Proof.Machine Sys2Proof.Laws

/-- The state a counter kind runs in, the last bus value set, holds the counter of the state before. -/
theorem setLast_irq_of_irq {s : State} {x : IrqState} (h : s.irq = x) (sp : Space) (v : Byte) :
    (s.setLast sp v).irq = x :=
  (setLast_irq s sp v).trans h

/-! ### The 8-bit VRC counter -/

section Vrc8

variable {s : State} {r : Vrc8} (h : s.irq = .vrc8 r) (v : Byte)
include h

theorem kindWrVrcLatch_vrc8 : kindWrVrcLatch v s = s.setIrq (.vrc8 { r with latch := v }) := by
  rw [kindWrVrcLatch, h]

theorem kindWrVrcLatchLo_vrc8 : kindWrVrcLatchLo v s = s.setIrq (.vrc8 { r with latch := v }) := by
  rw [kindWrVrcLatchLo, h]

theorem kindWrVrcLatchHi_vrc8 : kindWrVrcLatchHi v s = s := by
  rw [kindWrVrcLatchHi, h]

theorem kindWrVrcCtrl_vrc8 : kindWrVrcCtrl v s = s.setIrq (.vrc8 (vrc8SetCtrl s.params.vrcBits v r)) := by
  rw [kindWrVrcCtrl, h]

theorem kindWrVrcAck_vrc8 :
    kindWrVrcAck s = s.irqClear.setIrq (.vrc8 { r with ctrl := ctrlAck s.params.vrcBits r.ctrl }) := by
  rw [kindWrVrcAck, h]

end Vrc8

/-! ### The 16-bit VRC counter -/

section Vrc16

variable {s : State} {r : Vrc16} (h : s.irq = .vrc16 r) (v : Byte)
include h

theorem kindWrVrcLatch_vrc16 : kindWrVrcLatch v s = s.setIrq (.vrc16 { r with latch := setLow r.latch v }) := by
  rw [kindWrVrcLatch, h]

theorem kindWrVrcLatchLo_vrc16 : kindWrVrcLatchLo v s = s.setIrq (.vrc16 { r with latch := setLow r.latch v }) := by
  rw [kindWrVrcLatchLo, h]

theorem kindWrVrcLatchHi_vrc16 : kindWrVrcLatchHi v s = s.setIrq (.vrc16 { r with latch := setHigh r.latch v }) := by
  rw [kindWrVrcLatchHi, h]

theorem kindWrVrcCtrl_vrc16 : kindWrVrcCtrl v s = s.setIrq (.vrc16 (vrc16SetCtrl s.params.vrcBits v r)) := by
  rw [kindWrVrcCtrl, h]

theorem kindWrVrcAck_vrc16 :
    kindWrVrcAck s = s.irqClear.setIrq (.vrc16 { r with ctrl := ctrlAck s.params.vrcBits r.ctrl }) := by
  rw [kindWrVrcAck, h]

end Vrc16

/-- Settles O38: one rule per kind and counter, and the halves of the 16-bit latch as `setLow` and `setHigh`. -/
theorem vrcLatchWrites : Obligations.VrcLatchWrites := by
  intro c s
  refine ⟨fun r h => ?_, fun r h => ?_⟩
  · have hirq := setLast_irq_of_irq h c.sp c.v
    exact ⟨congrArg Host.Outcome.next (kindWrVrcLatch_vrc8 hirq c.v),
      congrArg Host.Outcome.next (kindWrVrcLatchLo_vrc8 hirq c.v),
      congrArg Host.Outcome.next (kindWrVrcLatchHi_vrc8 hirq c.v)⟩
  · have hirq := setLast_irq_of_irq h c.sp c.v
    exact ⟨setLow r.latch c.v, setHigh r.latch c.v, congrArg Host.Outcome.next (kindWrVrcLatch_vrc16 hirq c.v),
      congrArg Host.Outcome.next (kindWrVrcLatchLo_vrc16 hirq c.v),
      congrArg Host.Outcome.next (kindWrVrcLatchHi_vrc16 hirq c.v), setLow_toNat r.latch c.v,
      setHigh_toNat r.latch c.v⟩

/-! ### Control and acknowledge -/

/-- The four stored bits are those of the byte written (R98). -/
theorem getLsbD_lowNibble (v : Byte) (j : Fin 4) : (v.extractLsb' 0 4).getLsbD j = v.getLsbD j := by
  rw [BitVec.getLsbD_extractLsb', decide_eq_true j.isLt, Bool.true_and, Nat.zero_add]

theorem lowNibble_toNat (v : Byte) : (v.extractLsb' 0 4).toNat = v.toNat % 16 := by
  rw [BitVec.extractLsb'_toNat, Nat.shiftRight_zero]

/-- A control write in terms of the byte written (R182). -/
theorem vrc8SetCtrl_eq (l : VrcBits) (v : Byte) (r : Vrc8) :
    vrc8SetCtrl l v r = { r with
      ctrl := v.extractLsb' 0 4, prescaler := 341
      counter := if v.getLsbD l.e then r.latch else r.counter } := by
  rw [← getLsbD_lowNibble v l.e]
  rfl

theorem vrc16SetCtrl_eq (l : VrcBits) (v : Byte) (r : Vrc16) :
    vrc16SetCtrl l v r = { r with
      ctrl := v.extractLsb' 0 4, prescaler := 341
      counter := if v.getLsbD l.e then r.latch else r.counter } := by
  rw [← getLsbD_lowNibble v l.e]
  rfl

theorem exec_wrVrcCtrl_vrc8 {c : WriteCall} {s : State} {r : Vrc8} (h : s.irq = .vrc8 r) :
    exec (.wrVrcCtrl c) s = .next ((s.setLast c.sp c.v).setIrq (.vrc8 (vrc8SetCtrl s.params.vrcBits c.v r))) := by
  refine congrArg Host.Outcome.next ((kindWrVrcCtrl_vrc8 (setLast_irq_of_irq h c.sp c.v) c.v).trans ?_)
  rw [setLast_params]

theorem exec_wrVrcCtrl_vrc16 {c : WriteCall} {s : State} {r : Vrc16} (h : s.irq = .vrc16 r) :
    exec (.wrVrcCtrl c) s = .next ((s.setLast c.sp c.v).setIrq (.vrc16 (vrc16SetCtrl s.params.vrcBits c.v r))) := by
  refine congrArg Host.Outcome.next ((kindWrVrcCtrl_vrc16 (setLast_irq_of_irq h c.sp c.v) c.v).trans ?_)
  rw [setLast_params]

/-- Settles O39: the write is `vrc8SetCtrl` or `vrc16SetCtrl`, whose E is that bit of the byte written. -/
theorem vrcControlWrite : Obligations.VrcControlWrite := by
  refine ⟨rfl, rfl, fun c s => ⟨fun r h => ?_, fun r h => ?_⟩⟩
  · refine ⟨c.v.extractLsb' 0 4, lowNibble_toNat c.v, ?_⟩
    rw [exec_wrVrcCtrl_vrc8 h, vrc8SetCtrl_eq]
    rfl
  · refine ⟨c.v.extractLsb' 0 4, lowNibble_toNat c.v, ?_⟩
    rw [exec_wrVrcCtrl_vrc16 h, vrc16SetCtrl_eq]
    rfl

/-- Settles O40: the control register after is `ctrlAck`, bit by bit, after the line is cleared. -/
theorem vrcAcknowledge : Obligations.VrcAcknowledge := by
  refine ⟨rfl, rfl, fun c s => ⟨fun r h => ?_, fun r h => ?_⟩⟩
  · refine ⟨ctrlAck s.params.vrcBits r.ctrl, ctrlAck_getLsbD s.params.vrcBits r.ctrl, ?_⟩
    refine congrArg Host.Outcome.next ((kindWrVrcAck_vrc8 (setLast_irq_of_irq h c.sp c.v)).trans ?_)
    rw [setLast_params, State.irqClear, setLast_calls]
    rfl
  · refine ⟨ctrlAck s.params.vrcBits r.ctrl, ctrlAck_getLsbD s.params.vrcBits r.ctrl, ?_⟩
    refine congrArg Host.Outcome.next ((kindWrVrcAck_vrc16 (setLast_irq_of_irq h c.sp c.v)).trans ?_)
    rw [setLast_params, State.irqClear, setLast_calls]
    rfl

/-! ### The MMC3 counter -/

section Mmc3

variable {s : State} {r : Mmc3} (h : s.irq = .mmc3 r) (v : Byte)
include h

theorem kindWrM3Latch_mmc3 : kindWrM3Latch v s = s.setIrq (.mmc3 { r with latch := v }) := by
  rw [kindWrM3Latch, h]

theorem kindWrM3Reload_mmc3 : kindWrM3Reload s = s.setIrq (.mmc3 { r with reloadPending := true }) := by
  rw [kindWrM3Reload, h]

theorem kindWrM3Disable_mmc3 : kindWrM3Disable s = (s.setIrq (.mmc3 { r with enable := false })).irqClear := by
  rw [kindWrM3Disable, h]

theorem kindWrM3Enable_mmc3 : kindWrM3Enable s = s.setIrq (.mmc3 { r with enable := true }) := by
  rw [kindWrM3Enable, h]

end Mmc3

/-- Settles O41: one rule per kind, after the last bus value. -/
theorem mmc3RegisterWrites : Obligations.Mmc3RegisterWrites := by
  intro c s r h
  have hirq := setLast_irq_of_irq h c.sp c.v
  refine ⟨congrArg Host.Outcome.next (kindWrM3Latch_mmc3 hirq c.v),
    congrArg Host.Outcome.next (kindWrM3Reload_mmc3 hirq),
    congrArg Host.Outcome.next ((kindWrM3Disable_mmc3 hirq).trans ?_),
    congrArg Host.Outcome.next (kindWrM3Enable_mmc3 hirq)⟩
  rw [State.irqClear, setIrq_calls, setLast_calls]
  rfl

end Sys2Proof.Proofs
end

section
/-! SUPPORT. A kind whose counter or family the state does not hold (spec/43_irq_counters.md R203,
spec/44_trampoline.md R224, spec/45_mapper_families.md R235): O42. -/

namespace Sys2Proof.Proofs

open Sys2Proof Sys2Proof.Machine Sys2Proof.Laws

/-- A write kind other than a trampoline runs after the last bus value is set (R123, R125). -/
theorem exec_writeInstr_of_plain {fn : WriteKind} (h : fn.isTramp = false) (c : WriteCall) (k : Nat) (s : State) :
    exec (writeInstr c k fn) s = .next (runWrite fn c.sp c.param c.v (s.setLast c.sp c.v)) := by
  cases fn with
  | tramp se => nomatch h
  | _ => rfl

/-- Writes of kinds that leave the state they run in set the last bus value only. -/
theorem exec_eq_setLast_of_runWrite {c : WriteCall} {s : State} (fns : List WriteKind)
    (hplain : ∀ fn ∈ fns, fn.isTramp = false)
    (h : ∀ fn ∈ fns, runWrite fn c.sp c.param c.v (s.setLast c.sp c.v) = s.setLast c.sp c.v) :
    ∀ i ∈ fns.map (writeInstr c 0), exec i s = .next (s.setLast c.sp c.v) := by
  intro i hi
  obtain ⟨fn, hfn, rfl⟩ := List.mem_map.mp hi
  rw [exec_writeInstr_of_plain (hplain fn hfn), h fn hfn]

/-! ### Without a VRC counter -/

section NoVrc

variable {s : State} (h8 : ∀ r, s.irq ≠ .vrc8 r) (h16 : ∀ r, s.irq ≠ .vrc16 r)
include h8 h16

/-- The five VRC register kinds do nothing (R203). -/
theorem runWrite_of_no_vrc (sp : Space) (p : Addr) (v : Byte) :
    ∀ fn ∈ [WriteKind.vrcLatch, .vrcLatchLo, .vrcLatchHi, .vrcCtrl, .vrcAck], runWrite fn sp p v s = s := by
  intro fn hfn
  simp only [List.mem_cons, List.not_mem_nil, or_false] at hfn
  cases hirq : s.irq with
  | vrc8 r => exact absurd hirq (h8 r)
  | vrc16 r => exact absurd hirq (h16 r)
  | none | mmc3 =>
    obtain rfl | rfl | rfl | rfl | rfl := hfn <;>
      simp only [runWrite, kindWrVrcLatch, kindWrVrcLatchLo, kindWrVrcLatchHi, kindWrVrcCtrl, kindWrVrcAck, hirq]

theorem tickIrq_of_no_vrc : s.tickIrq = s := by
  cases hirq : s.irq with
  | vrc8 r => exact absurd hirq (h8 r)
  | vrc16 r => exact absurd hirq (h16 r)
  | none | mmc3 => rw [State.tickIrq, hirq]

end NoVrc

/-! ### Without the MMC3 counter -/

section NoMmc3

variable {s : State} (h : ∀ r, s.irq ≠ .mmc3 r)
include h

/-- The four MMC3 register kinds do nothing (R203). -/
theorem runWrite_of_no_mmc3 (sp : Space) (p : Addr) (v : Byte) :
    ∀ fn ∈ [WriteKind.m3Latch, .m3Reload, .m3Disable, .m3Enable], runWrite fn sp p v s = s := by
  intro fn hfn
  simp only [List.mem_cons, List.not_mem_nil, or_false] at hfn
  cases hirq : s.irq with
  | mmc3 r => exact absurd hirq (h r)
  | none | vrc8 | vrc16 =>
    obtain rfl | rfl | rfl | rfl := hfn <;>
      simp only [runWrite, kindWrM3Latch, kindWrM3Reload, kindWrM3Disable, kindWrM3Enable, hirq]

theorem a12Sample_of_no_mmc3 (a : Addr) : s.a12Sample a = s := by
  cases hirq : s.irq with
  | mmc3 r => exact absurd hirq (h r)
  | none | vrc8 | vrc16 => rw [State.a12Sample, hirq]

end NoMmc3

/-! ### Without the family -/

theorem kindWrShift_of_no_serial {s : State} (h : ∀ r, s.family ≠ .serial r) (p : Addr) (v : Byte) :
    kindWrShift p v s = s := by
  cases hfam : s.family with
  | serial r => exact absurd hfam (h r)
  | _ => rw [kindWrShift, hfam]

theorem kindWrSelect_of_no_indexed {s : State} (h : ∀ r, s.family ≠ .indexed r) (v : Byte) :
    kindWrSelect v s = s := by
  cases hfam : s.family with
  | indexed r => exact absurd hfam (h r)
  | _ => rw [kindWrSelect, hfam]

theorem kindWrData_of_no_indexed {s : State} (h : ∀ r, s.family ≠ .indexed r) (v : Byte) : kindWrData v s = s := by
  cases hfam : s.family with
  | indexed r => exact absurd hfam (h r)
  | _ => rw [kindWrData, hfam]

theorem runSideEffect_of_no_latch {s : State} (h : ∀ r, s.family ≠ .latch r) (w st : Byte) :
    s.runSideEffect (.latch w st) = s := by
  cases hfam : s.family with
  | latch r => exact absurd hfam (h r)
  | _ => rw [State.runSideEffect, hfam]

/-- Settles O42: the last bus value is set, and the kind leaves a state without its counter or family as it is. -/
theorem kindsWithoutTheirStateDoNothing : Obligations.KindsWithoutTheirStateDoNothing := by
  intro c s
  have hirq := setLast_irq s c.sp c.v
  have hfam := setLast_family s c.sp c.v
  refine ⟨fun h8 h16 => ⟨?_, fun hlive => ?_⟩, fun h => ⟨?_, fun slot log2 => ?_, fun d slot log2 => ?_⟩,
    fun h => ?_, fun h => ⟨?_, ?_⟩, fun h w st => ?_⟩
  · rw [← hirq] at h8 h16
    exact exec_eq_setLast_of_runWrite [.vrcLatch, .vrcLatchLo, .vrcLatchHi, .vrcCtrl, .vrcAck] (by decide)
      (runWrite_of_no_vrc h8 h16 c.sp c.param c.v)
  · rw [exec_tick hlive, tickIrq_of_no_vrc h8 h16]
  · rw [← hirq] at h
    exact exec_eq_setLast_of_runWrite [.m3Latch, .m3Reload, .m3Disable, .m3Enable] (by decide)
      (runWrite_of_no_mmc3 h c.sp c.param c.v)
  · rw [← hirq] at h
    simp only [exec, execWrChrA12, execWrChr, State.writeThrough, kindWrChrA12, a12Sample_of_no_mmc3 h]
  · simp only [exec, execRdChrA12, execRdChr, State.readThrough, kindRdChrA12, a12Sample_of_no_mmc3 h]
  · rw [← hfam] at h
    exact congrArg Host.Outcome.next (kindWrShift_of_no_serial h c.param c.v)
  · rw [← hfam] at h
    exact congrArg Host.Outcome.next (kindWrSelect_of_no_indexed h c.v)
  · rw [← hfam] at h
    exact congrArg Host.Outcome.next (kindWrData_of_no_indexed h c.v)
  · exact congrArg Host.Outcome.next (runSideEffect_of_no_latch h w st)

end Sys2Proof.Proofs
end

section
/-! SUPPORT. The timing law of the VRC counters (spec/43_irq_counters.md R187): the prescaler, the counter and the
number of wraps after `n` ticks in closed form, one tick of the closed form, and O37. -/

namespace Sys2Proof.Proofs

open Sys2Proof Sys2Proof.Machine Sys2Proof.Laws

/-! ### The prescaler -/

/-- The number of clocks in `n` ticks from a full prescaler: each tick takes 3 of 341 (R183, R187). -/
def vrcClocks (n : Nat) : Nat := 3 * n / 341

/-- Tick `n + 1` from a full prescaler clocks the counter. -/
def vrcTickIsClock (n : Nat) : Bool := decide (338 ≤ 3 * n % 341)

/-- The prescaler after `n` ticks from a full one (R183). -/
def vrcPrescalerAfter (n : Nat) : BitVec 16 := BitVec.ofNat 16 (341 - 3 * n % 341)

theorem vrcClocks_succ (n : Nat) : vrcClocks (n + 1) = vrcClocks n + (vrcTickIsClock n).toNat := by
  unfold vrcClocks vrcTickIsClock
  by_cases h : 338 ≤ 3 * n % 341
  · rw [decide_eq_true h, Bool.toNat_true]; omega
  · rw [decide_eq_false h, Bool.toNat_false]; omega

theorem vrcPrescalerAfter_toInt (n : Nat) : (vrcPrescalerAfter n).toInt = 341 - (3 * n % 341 : Nat) := by
  have hnat : (vrcPrescalerAfter n).toNat = 341 - 3 * n % 341 :=
    (BitVec.toNat_ofNat _ _).trans (Nat.mod_eq_of_lt (by omega))
  rw [BitVec.toInt_eq_toNat_of_lt (by omega), hnat]
  omega

/-- The prescaler runs out in the ticks that clock. -/
theorem vrcPrescalerAfter_runsOut_iff (n : Nat) :
    (vrcPrescalerAfter n - 3).toInt ≤ 0 ↔ 338 ≤ 3 * n % 341 := by
  have hsub : (vrcPrescalerAfter n - 3).toInt = (vrcPrescalerAfter n).toInt - 3 := by
    rw [BitVec.toInt_sub, vrcPrescalerAfter_toInt]
    exact Int.bmod_eq_of_le (by simp; omega) (by simp; omega)
  rw [hsub, vrcPrescalerAfter_toInt]
  omega

/-- Three off, and 341 more where the prescaler runs out (R183). -/
theorem vrcPrescalerAfter_succ (n : Nat) :
    vrcPrescalerAfter (n + 1)
      = if 338 ≤ 3 * n % 341 then vrcPrescalerAfter n - 3 + 341 else vrcPrescalerAfter n - 3 := by
  have hrem : 3 * (n + 1) % 341 = if 338 ≤ 3 * n % 341 then 3 * n % 341 - 338 else 3 * n % 341 + 3 := by
    split <;> omega
  have hlt : 3 * n % 341 < 341 := Nat.mod_lt _ (by decide)
  unfold vrcPrescalerAfter
  rw [hrem]
  generalize 3 * n % 341 = x at hlt
  apply BitVec.eq_of_toNat_eq
  split <;> simp <;> omega

section CycleMode

variable {l : VrcBits} {ctrl : BitVec 4} (hm : ctrl.getLsbD l.m = l.cycleMode) (n : Nat)
include hm

theorem vrcTickClocks_of_cycleMode (scan : ScanlineClock) :
    vrcTickClocks l scan ctrl (vrcPrescalerAfter n) = vrcTickIsClock n := by
  rw [vrcTickClocks, decide_eq_true hm, if_pos rfl]
  exact decide_eq_decide.mpr (vrcPrescalerAfter_runsOut_iff n)

theorem vrcTickPrescaler_of_cycleMode :
    vrcTickPrescaler l ctrl (vrcPrescalerAfter n) = vrcPrescalerAfter (n + 1) := by
  rw [vrcTickPrescaler, decide_eq_true hm, if_pos rfl, vrcPrescalerAfter_succ]
  exact if_congr (vrcPrescalerAfter_runsOut_iff n) rfl rfl

end CycleMode

/-! ### The counter -/

section Counter

variable {w : Nat} (latch : BitVec w)

/-- The clocks from the latch to the next wrap, `MAX - L + 1` (R187). -/
def vrcPeriod : Nat := 2 ^ w - latch.toNat

/-- The counter `k` clocks after it was loaded from the latch (R184, R187). -/
def vrcCounterAfter (k : Nat) : BitVec w := BitVec.ofNat w (latch.toNat + k % vrcPeriod latch)

/-- The wraps in `n` ticks from the latch and a full prescaler. -/
def vrcWraps (n : Nat) : Nat := vrcClocks n / vrcPeriod latch

/-- Tick `n + 1` from the latch and a full prescaler wraps the counter: it clocks it at all ones (R184). -/
def vrcTickIsWrap (n : Nat) : Bool :=
  vrcTickIsClock n && decide (vrcCounterAfter latch (vrcClocks n) = BitVec.allOnes w)

theorem vrcPeriod_pos : 0 < vrcPeriod latch := Nat.sub_pos_of_lt latch.isLt

theorem vrcCounterAfter_toNat (k : Nat) :
    (vrcCounterAfter latch k).toNat = latch.toNat + k % vrcPeriod latch := by
  have hlt : k % vrcPeriod latch < 2 ^ w - latch.toNat := Nat.mod_lt k (vrcPeriod_pos latch)
  exact (BitVec.toNat_ofNat _ _).trans (Nat.mod_eq_of_lt (by omega))

theorem dvd_succ_iff_mod_succ_eq {p : Nat} (hp : 0 < p) (k : Nat) : p ∣ k + 1 ↔ k % p + 1 = p := by
  obtain ⟨b, rfl⟩ := Nat.exists_eq_add_one.mpr hp
  rw [Nat.dvd_iff_mod_eq_zero, Nat.succ_mod_succ_eq_zero_iff, Nat.add_right_cancel_iff]

/-- The counter is all ones before the last clock of a period. -/
theorem vrcCounterAfter_eq_allOnes_iff (k : Nat) :
    vrcCounterAfter latch k = BitVec.allOnes w ↔ vrcPeriod latch ∣ k + 1 := by
  have hlt : k % vrcPeriod latch < 2 ^ w - latch.toNat := Nat.mod_lt k (vrcPeriod_pos latch)
  rw [dvd_succ_iff_mod_succ_eq (vrcPeriod_pos latch), ← BitVec.toNat_inj, vrcCounterAfter_toNat,
    BitVec.toNat_allOnes]
  change _ ↔ _ = 2 ^ w - latch.toNat
  omega

/-- One clock: back to the latch from all ones, else one up (R184). -/
theorem vrcCounterAfter_succ (k : Nat) :
    vrcCounterAfter latch (k + 1)
      = if vrcCounterAfter latch k = BitVec.allOnes w then latch else vrcCounterAfter latch k + 1 := by
  by_cases hwrap : vrcPeriod latch ∣ k + 1
  · rw [if_pos ((vrcCounterAfter_eq_allOnes_iff latch k).mpr hwrap), vrcCounterAfter,
      Nat.mod_eq_zero_of_dvd hwrap, Nat.add_zero, BitVec.ofNat_toNat, BitVec.setWidth_eq]
  · have hlt : k % vrcPeriod latch + 1 < vrcPeriod latch :=
      lt_of_le_of_ne (Nat.mod_lt k (vrcPeriod_pos latch))
        (mt (dvd_succ_iff_mod_succ_eq (vrcPeriod_pos latch) k).mpr hwrap)
    rw [if_neg (mt (vrcCounterAfter_eq_allOnes_iff latch k).mp hwrap), vrcCounterAfter, vrcCounterAfter,
      ← Nat.mod_add_mod, Nat.mod_eq_of_lt hlt, ← Nat.add_assoc, BitVec.ofNat_add]
    rfl

/-- The counter over one tick, as a VRC tick computes it. -/
theorem vrcCounterAfter_tick (n : Nat) :
    (if vrcTickIsWrap latch n then latch
      else if vrcTickIsClock n then vrcCounterAfter latch (vrcClocks n) + 1 else vrcCounterAfter latch (vrcClocks n))
      = vrcCounterAfter latch (vrcClocks (n + 1)) := by
  rw [vrcClocks_succ, vrcTickIsWrap]
  cases vrcTickIsClock n with
  | false => rfl
  | true => simp only [Bool.true_and, decide_eq_true_eq, if_true, Bool.toNat_true, vrcCounterAfter_succ]

theorem vrcWraps_zero : vrcWraps latch 0 = 0 := Nat.zero_div _

theorem vrcWraps_succ (n : Nat) : vrcWraps latch (n + 1) = vrcWraps latch n + (vrcTickIsWrap latch n).toNat := by
  rw [vrcWraps, vrcWraps, vrcTickIsWrap, vrcClocks_succ]
  cases vrcTickIsClock n with
  | false => rfl
  | true =>
    rw [Bool.toNat_true, Nat.succ_div, Bool.true_and, Bool.toNat, Bool.cond_decide]
    exact congrArg _ (if_congr (vrcCounterAfter_eq_allOnes_iff latch _).symm rfl rfl)

end Counter

/-! ### Ticks in a row -/

theorem execTicks_succ_of_next {n : Nat} {s t : State} (h : execTicks n s = .next t) :
    execTicks (n + 1) s = exec .tick t := by
  induction n generalizing s with
  | zero =>
    cases h
    rw [execTicks]
    cases exec .tick t <;> rfl
  | succ n ih =>
    rw [execTicks] at h ⊢
    cases hexec : exec .tick s with
    | next u => rw [hexec] at h; exact ih h
    | fault f => rw [hexec] at h; nomatch h
    | refused f => rw [hexec] at h; nomatch h

/-- `s` with another counter, after `n` assertions of the line (R325). -/
def irqRaised (s : State) (r : IrqState) (n : Nat) : State :=
  { s with irq := r, irqOut := s.irqOut || decide (0 < n), calls := s.calls ++ List.replicate n .irq }

@[simp] theorem irqRaised_params (s : State) (r : IrqState) (n : Nat) : (irqRaised s r n).params = s.params := rfl

theorem irqRaised_zero (s : State) (r : IrqState) : irqRaised s r 0 = s.setIrq r := by
  simp [irqRaised, State.setIrq]

theorem stepIrq_irqRaised (s : State) (r r' : IrqState) (n : Nat) (b : Bool) :
    (irqRaised s r n).stepIrq r' b = irqRaised s r' (n + b.toNat) := by
  cases b with
  | false => rfl
  | true =>
    simp [State.stepIrq, State.setIrq, State.irqAssert, irqRaised, List.replicate_succ']

/-- Ticks that carry a counter along `irqs` and assert `asserts` times in all, `n` in a row. -/
theorem execTicks_eq_irqRaised {s : State} (hlive : s.live = true) {irqs : Nat → IrqState} {asserts : Nat → Nat}
    (hasserts : asserts 0 = 0)
    (htick : ∀ n, (irqRaised s (irqs n) (asserts n)).tickIrq = irqRaised s (irqs (n + 1)) (asserts (n + 1)))
    (n : Nat) : execTicks n (s.setIrq (irqs 0)) = .next (irqRaised s (irqs n) (asserts n)) := by
  induction n with
  | zero => rw [hasserts, irqRaised_zero, execTicks]
  | succ n ih =>
    have hlive' : (irqRaised s (irqs n) (asserts n)).live = true := hlive
    rw [execTicks_succ_of_next ih, exec_tick hlive', htick]

/-! ### The 8-bit counter -/

/-- `r` counted on for `n` ticks from its latch and a full prescaler. -/
def vrc8AfterTicks (r : Vrc8) (n : Nat) : Vrc8 :=
  { r with counter := vrcCounterAfter r.latch (vrcClocks n), prescaler := vrcPrescalerAfter n }

theorem tickIrq_vrc8 {s : State} {r : Vrc8} (h : s.irq = .vrc8 r) :
    s.tickIrq = s.stepIrq (.vrc8 (vrc8Tick s.params.vrcBits s.params.scanlineClock r).1)
      (vrc8Tick s.params.vrcBits s.params.scanlineClock r).2 := by
  rw [State.tickIrq, h]

theorem vrc8Tick_afterTicks {l : VrcBits} {r : Vrc8} (hm : r.ctrl.getLsbD l.m = l.cycleMode)
    (he : ctrlE l r.ctrl = true) (scan : ScanlineClock) (n : Nat) :
    vrc8Tick l scan (vrc8AfterTicks r n) = (vrc8AfterTicks r (n + 1), vrcTickIsWrap r.latch n) := by
  rw [vrc8Tick_eq]
  simp only [vrc8AfterTicks, vrcTickClocks_of_cycleMode hm, vrcTickPrescaler_of_cycleMode hm, he, Bool.and_true,
    ← vrcCounterAfter_tick r.latch n]
  rfl

theorem execTicks_vrc8 {s : State} {p : Params} {r : Vrc8} (hlive : s.live = true) (hp : s.params = p)
    (hm : r.ctrl.getLsbD p.vrcBits.m = p.vrcBits.cycleMode) (he : ctrlE p.vrcBits r.ctrl = true) (n : Nat) :
    execTicks n (s.setIrq (.vrc8 (vrc8AfterTicks r 0)))
      = .next (irqRaised s (.vrc8 (vrc8AfterTicks r n)) (vrcWraps r.latch n)) := by
  refine execTicks_eq_irqRaised (irqs := fun n => .vrc8 (vrc8AfterTicks r n)) hlive (vrcWraps_zero r.latch)
    (fun n => ?_) n
  rw [tickIrq_vrc8 rfl, irqRaised_params, hp, vrc8Tick_afterTicks hm he, stepIrq_irqRaised, vrcWraps_succ]

/-! ### The 16-bit counter -/

/-- `r` counted on for `n` ticks from its latch and a full prescaler. -/
def vrc16AfterTicks (r : Vrc16) (n : Nat) : Vrc16 :=
  { r with counter := vrcCounterAfter r.latch (vrcClocks n), prescaler := vrcPrescalerAfter n }

theorem tickIrq_vrc16 {s : State} {r : Vrc16} (h : s.irq = .vrc16 r) :
    s.tickIrq = s.stepIrq (.vrc16 (vrc16Tick s.params.vrcBits s.params.scanlineClock r).1)
      (vrc16Tick s.params.vrcBits s.params.scanlineClock r).2 := by
  rw [State.tickIrq, h]

theorem vrc16Tick_afterTicks {l : VrcBits} {r : Vrc16} (hm : r.ctrl.getLsbD l.m = l.cycleMode)
    (he : ctrlE l r.ctrl = true) (hs : ctrlS l r.ctrl = false) (scan : ScanlineClock) (n : Nat) :
    vrc16Tick l scan (vrc16AfterTicks r n) = (vrc16AfterTicks r (n + 1), vrcTickIsWrap r.latch n) := by
  rw [vrc16Tick_eq_whole l scan (vrc16AfterTicks r n) hs]
  simp only [vrc16AfterTicks, vrcTickClocks_of_cycleMode hm, vrcTickPrescaler_of_cycleMode hm, he, Bool.and_true,
    ← vrcCounterAfter_tick r.latch n]
  rfl

theorem execTicks_vrc16 {s : State} {p : Params} {r : Vrc16} (hlive : s.live = true) (hp : s.params = p)
    (hm : r.ctrl.getLsbD p.vrcBits.m = p.vrcBits.cycleMode) (he : ctrlE p.vrcBits r.ctrl = true)
    (hs : ctrlS p.vrcBits r.ctrl = false) (n : Nat) :
    execTicks n (s.setIrq (.vrc16 (vrc16AfterTicks r 0)))
      = .next (irqRaised s (.vrc16 (vrc16AfterTicks r n)) (vrcWraps r.latch n)) := by
  refine execTicks_eq_irqRaised (irqs := fun n => .vrc16 (vrc16AfterTicks r n)) hlive (vrcWraps_zero r.latch)
    (fun n => ?_) n
  rw [tickIrq_vrc16 rfl, irqRaised_params, hp, vrc16Tick_afterTicks hm he hs, stepIrq_irqRaised, vrcWraps_succ]

/-! ### From the control write -/

theorem vrc8SetCtrl_eq_afterTicks {l : VrcBits} {v : Byte} (he : v.getLsbD l.e = true) (r : Vrc8) :
    vrc8SetCtrl l v r = vrc8AfterTicks { r with ctrl := v.extractLsb' 0 4 } 0 := by
  rw [vrc8SetCtrl_eq, if_pos he]
  simp [vrc8AfterTicks, vrcCounterAfter, vrcClocks, vrcPrescalerAfter]

theorem vrc16SetCtrl_eq_afterTicks {l : VrcBits} {v : Byte} (he : v.getLsbD l.e = true) (r : Vrc16) :
    vrc16SetCtrl l v r = vrc16AfterTicks { r with ctrl := v.extractLsb' 0 4 } 0 := by
  rw [vrc16SetCtrl_eq, if_pos he]
  simp [vrc16AfterTicks, vrcCounterAfter, vrcClocks, vrcPrescalerAfter]

/-- The line is up once there was a wrap, that is once a period has gone by. -/
theorem irqRaised_vrcWraps {w : Nat} (latch : BitVec w) (s : State) (r : IrqState) (n : Nat) :
    irqRaised s r (vrcWraps latch n) = { s with
      irq := r
      irqOut := s.irqOut || decide (2 ^ w - latch.toNat ≤ 3 * n / 341)
      calls := s.calls ++ List.replicate (3 * n / 341 / (2 ^ w - latch.toNat)) .irq } := by
  have hpos : 0 < vrcWraps latch n ↔ 2 ^ w - latch.toNat ≤ 3 * n / 341 :=
    Nat.div_pos_iff.trans (and_iff_right (vrcPeriod_pos latch))
  simp only [irqRaised, hpos]
  rfl

theorem setLast_live {s : State} (h : s.live = true) (sp : Space) (v : Byte) : (s.setLast sp v).live = true := by
  rw [State.live, setLast_phase]
  exact h

/-- Settles O37: a control write starts the closed form at its tick 0, and every tick carries it on. -/
theorem vrcTimingLaw : Obligations.VrcTimingLaw := by
  intro c s s1 n hlive hm he hexec
  have hm' := (getLsbD_lowNibble c.v _).trans hm
  have he' := (getLsbD_lowNibble c.v _).trans he
  refine ⟨fun r h => ?_, fun r h hs => ?_⟩
  · rw [exec_wrVrcCtrl_vrc8 h, vrc8SetCtrl_eq_afterTicks he] at hexec
    obtain rfl := Host.Outcome.next.inj hexec
    refine ⟨vrc8AfterTicks { r with ctrl := c.v.extractLsb' 0 4 } n, ?_, rfl, vrcPrescalerAfter_toInt n,
      vrcCounterAfter_toNat r.latch _⟩
    rw [execTicks_vrc8 (r := { r with ctrl := c.v.extractLsb' 0 4 }) (setLast_live hlive _ _)
      (setLast_params ..) hm' he', irqRaised_vrcWraps, setLast_irqOut, setLast_calls]
    rfl
  · rw [exec_wrVrcCtrl_vrc16 h, vrc16SetCtrl_eq_afterTicks he] at hexec
    obtain rfl := Host.Outcome.next.inj hexec
    have hs' := (getLsbD_lowNibble c.v _).trans hs
    refine ⟨vrc16AfterTicks { r with ctrl := c.v.extractLsb' 0 4 } n, ?_, rfl, vrcPrescalerAfter_toInt n,
      vrcCounterAfter_toNat r.latch _⟩
    rw [execTicks_vrc16 (r := { r with ctrl := c.v.extractLsb' 0 4 }) (setLast_live hlive _ _)
      (setLast_params ..) hm' he' hs', irqRaised_vrcWraps, setLast_irqOut, setLast_calls]
    rfl

end Sys2Proof.Proofs
end

section
/-! SUPPORT. The MMC3 counter and its A12 filter (spec/43_irq_counters.md R193, R195 to R197): what a sample does in
each case, runs of samples, and O43 and O44. -/

namespace Sys2Proof.Proofs

open Sys2Proof Sys2Proof.Machine Sys2Proof.Laws

/-! ### One clock of the counter -/

/-- The counter after a clock, the pending reload and the line, spelled out (R196, R197). -/
theorem m3Clock_eq (alt : Bool) (r : Mmc3) :
    let reload := r.reloadPending || decide (r.counter = 0)
    let new := if reload then r.latch else r.counter - 1
    let fires := if alt then decide (r.counter = 1 ∧ new = 0) else decide (new = 0)
    m3Clock alt r = ({ r with
      counter := new
      reloadPending := if reload then false else r.reloadPending }, fires && r.enable) := by
  intro reload new fires
  have hfire : m3Fire alt r.counter new = fires := by
    rw [m3Fire]
    simp only [fires, Bool.decide_and]
    rfl
  have hreload : (r.reloadPending || r.counter == 0) = reload := rfl
  rw [m3Clock, hreload, ← hfire]
  simp only [new]
  cases reload <;> rfl

/-- A clock keeps the latch, the enable and the filter's first-sample flag (R196). -/
theorem m3Clock_kept (alt : Bool) (r : Mmc3) :
    (m3Clock alt r).1.latch = r.latch ∧ (m3Clock alt r).1.enable = r.enable
      ∧ (m3Clock alt r).1.a12Init = r.a12Init := by
  rw [m3Clock_eq]
  exact ⟨rfl, rfl, rfl⟩

/-- `r` with another low period and level of the A12 line (R32). -/
def setFilter (r : Mmc3) (since : Nat) (high : Bool) : Mmc3 := { r with a12LowSince := since, a12High := high }

/-- A clock reads and writes the counter's own registers, not the filter's (R196). -/
theorem m3Clock_setFilter (alt : Bool) (r : Mmc3) (since : Nat) (high : Bool) :
    m3Clock alt (setFilter r since high) = (setFilter (m3Clock alt r).1 since high, (m3Clock alt r).2) := by
  rw [m3Clock_eq, m3Clock_eq]
  rfl

/-! ### One sample -/

section Sample

variable {r : Mmc3} (alt : Bool) (t : Nat)

/-- The first sample never clocks (R193). -/
theorem a12Step_first (h : r.a12Init = false) (high : Bool) :
    a12Step alt high t r = ({ r with
      a12Init := true, a12High := high, a12LowSince := if high then r.a12LowSince else t }, false) := by
  rw [a12Step, if_neg (Bool.eq_false_iff.mp h)]

variable (h : r.a12Init = true)
include h

/-- A low sample starts the low period if the one before was high (R193). -/
theorem a12Step_low :
    a12Step alt false t r
      = ({ r with a12High := false, a12LowSince := if r.a12High then t else r.a12LowSince }, false) := by
  rw [a12Step, if_pos h]
  rfl

/-- A high sample that is no rise, or a rise too soon, clocks nothing (R195). -/
theorem a12Step_high_of_not_qualified (hq : a12Qualified r t = false) :
    a12Step alt true t r = ({ r with a12High := true }, false) := by
  rw [a12Step, if_pos h, if_pos rfl, hq]
  rfl

/-- A qualified rise clocks the counter (R193). -/
theorem a12Step_high_of_qualified (hq : a12Qualified r t = true) :
    a12Step alt true t r = ({ (m3Clock alt r).1 with a12High := true }, (m3Clock alt r).2) := by
  rw [a12Step, if_pos h, if_pos rfl, hq]
  rfl

end Sample

theorem a12Qualified_iff (r : Mmc3) (t : Nat) :
    a12Qualified r t = true ↔ r.a12High = false ∧ 3 ≤ t - r.a12LowSince := by
  rw [a12Qualified, Bool.and_eq_true, Bool.not_eq_true', decide_eq_true_eq]
  rfl

theorem a12Qualified_eq_false_iff (r : Mmc3) (t : Nat) :
    a12Qualified r t = false ↔ r.a12High = true ∨ t - r.a12LowSince < 3 := by
  rw [← Bool.not_eq_true, a12Qualified_iff, not_and_or, Bool.not_eq_false, Nat.not_le]

/-! ### A sample of an access -/

theorem a12Of_eq (a : Addr) : a12Of a = decide (a.toNat / 4096 % 2 = 1) := getLsbD_iff a 12

section Access

variable {s : State} {r : Mmc3} {a : Addr} (h : s.irq = .mmc3 r)
include h

theorem a12Sample_of_outside (ha : 0x1FFF < a.toNat) : s.a12Sample a = s := by
  rw [State.a12Sample, h]
  exact if_neg (by rw [a12Sampled_eq, decide_eq_true_eq]; omega)

theorem a12Sample_of_inside (ha : a.toNat ≤ 0x1FFF) {high : Bool} (hhigh : decide (a.toNat / 4096 % 2 = 1) = high) :
    s.a12Sample a = s.stepIrq (.mmc3 (a12Step s.params.variant.altIrq high s.wires.now r).1)
      (a12Step s.params.variant.altIrq high s.wires.now r).2 := by
  rw [← hhigh, ← a12Of_eq, State.a12Sample, h]
  exact if_pos (by rw [a12Sampled_eq, decide_eq_true_eq]; omega)

end Access

/-- Settles O43: outside the range nothing, inside it the sample's case of `a12Step`, its clock as in `m3Clock_eq`. -/
theorem a12SampleClocksTheCounter : Obligations.A12SampleClocksTheCounter := by
  intro s r a hirq high
  refine ⟨a12Sample_of_outside hirq, fun ha hinit => ?_, fun ha hinit hhigh => ?_,
    fun ha hinit hhigh hshort => ?_, fun ha hinit hhigh hlow hlong => ?_⟩
  · rw [a12Sample_of_inside hirq ha rfl, a12Step_first _ _ hinit]
    rfl
  · rw [a12Sample_of_inside hirq ha hhigh, a12Step_low _ _ hinit]
    rfl
  · rw [a12Sample_of_inside hirq ha hhigh,
      a12Step_high_of_not_qualified _ _ hinit ((a12Qualified_eq_false_iff _ _).mpr hshort)]
    rfl
  · rw [a12Sample_of_inside hirq ha hhigh,
      a12Step_high_of_qualified _ _ hinit ((a12Qualified_iff _ _).mpr ⟨hlow, hlong⟩), m3Clock_eq]
    rfl

/-! ### Runs of samples -/

theorem a12Run_append (alt : Bool) (l l' : List (Bool × Nat)) (r : Mmc3) :
    a12Run alt (l ++ l') r = a12Run alt l' (a12Run alt l r) := by
  induction l generalizing r with
  | nil => rfl
  | cons e l ih => exact ih _

/-- A sample of the level the line already has changes nothing: it is no edge (R195). -/
theorem a12Step_of_level (alt : Bool) (t : Nat) {high : Bool} {r : Mmc3} (hinit : r.a12Init = true)
    (hlevel : r.a12High = high) : (a12Step alt high t r).1 = r := by
  have heta : { r with a12High := high } = r := congrArg (fun b => { r with a12High := b }) hlevel.symm
  cases high with
  | false => rw [a12Step_low alt t hinit, hlevel]; exact heta
  | true =>
    rw [a12Step_high_of_not_qualified alt t hinit ((a12Qualified_eq_false_iff r t).mpr (.inl hlevel))]; exact heta

theorem a12Run_of_level (alt high : Bool) {r : Mmc3} (hinit : r.a12Init = true) (hlevel : r.a12High = high)
    (ts : List Nat) : a12Run alt (ts.map fun t => (high, t)) r = r := by
  induction ts with
  | nil => rfl
  | cons t ts ih => exact (congrArg (a12Run alt _) (a12Step_of_level alt t hinit hlevel)).trans ih

/-- A rise at `t1` after a fall at `t0` clocks the counter if the line was low for 3 cycles, and only sets the line if
not (R195). -/
theorem a12Step_rise (alt : Bool) {r : Mmc3} (hinit : r.a12Init = true) (t0 t1 : Nat) :
    (a12Step alt true t1 (setFilter r t0 false)).1
      = setFilter (if 3 ≤ t1 - t0 then (m3Clock alt r).1 else r) t0 true := by
  have hinit' : (setFilter r t0 false).a12Init = true := hinit
  by_cases hlong : 3 ≤ t1 - t0
  · have hq : a12Qualified (setFilter r t0 false) t1 = true := (a12Qualified_iff _ _).mpr ⟨rfl, hlong⟩
    rw [a12Step_high_of_qualified alt t1 hinit' hq, m3Clock_setFilter, if_pos hlong]
    rfl
  · have hq : a12Qualified (setFilter r t0 false) t1 = false :=
      (a12Qualified_eq_false_iff _ _).mpr (.inr (Nat.not_le.mp hlong))
    rw [a12Step_high_of_not_qualified alt t1 hinit' hq, if_neg hlong]
    rfl

/-- From a high line, a fall, low samples, a rise and high samples do what the rise does (R195). -/
theorem a12Run_fall_rise (alt : Bool) {r : Mmc3} (hinit : r.a12Init = true) (hhigh : r.a12High = true) (t0 t1 : Nat)
    (lows highs : List Nat) :
    a12Run alt ((false, t0) :: lows.map (fun t => (false, t)) ++ (true, t1) :: highs.map (fun t => (true, t))) r
      = setFilter (if 3 ≤ t1 - t0 then (m3Clock alt r).1 else r) t0 true := by
  have hlow : (setFilter r t0 false).a12Init = true := hinit
  have hend : (setFilter (if 3 ≤ t1 - t0 then (m3Clock alt r).1 else r) t0 true).a12Init = true := by
    obtain ⟨-, -, hkept⟩ := m3Clock_kept alt r
    split
    · exact hkept.trans hinit
    · exact hinit
  have hfall : (a12Step alt false t0 r).1 = setFilter r t0 false := by
    rw [a12Step_low alt t0 hinit, hhigh]
    rfl
  rw [a12Run_append, a12Run, a12Run, hfall, a12Run_of_level alt false hlow rfl, a12Step_rise alt hinit,
    a12Run_of_level alt true hend rfl]

/-- Settles O44: the registers of the run's end, which `a12Run_fall_rise` gives. -/
theorem a12FilterCountsRisingEdges : Obligations.A12FilterCountsRisingEdges := by
  intro alt r t0 t1 lows highs hinit hhigh r' once
  obtain ⟨hlatch, henable, hkept⟩ := m3Clock_kept alt r
  have hend : r' = setFilter (if 3 ≤ t1 - t0 then once else r) t0 true :=
    a12Run_fall_rise alt hinit hhigh t0 t1 lows highs
  rw [hend]
  by_cases hlong : 3 ≤ t1 - t0
  · rw [if_pos hlong, if_pos hlong, if_pos hlong]
    exact ⟨rfl, rfl, hlatch, henable, rfl, rfl, hkept.trans hinit⟩
  · rw [if_neg hlong, if_neg hlong, if_neg hlong]
    exact ⟨rfl, rfl, rfl, rfl, rfl, rfl, hinit⟩

end Sys2Proof.Proofs
end

section
/-! SUPPORT. Trampolines (spec/44_trampoline.md R220 to R227): what a wrap installs and captures (O26), what a
trampoline forwards to (O9), two wraps of one address (O10), and the side effect (O50). -/

namespace Sys2Proof.Proofs

open Sys2Proof Sys2Proof.Machine Sys2Proof.Laws

/-! ### Wrapping an entry -/

/-- A legal wrap in a live instance completes (R220, R309). -/
theorem exec_wraprd {s : State} {se : SideEffect} (hlive : s.live = true) (hse : se.wellFormed = true) (sp : Space)
    (a p : Addr) : exec (.wraprd sp a (.read (.tramp se)) p) s = .next (s.wrapRead sp a se p) := by
  simp only [exec, execWraprd, hse, if_true]
  exact whenLive_next_iff.mpr ⟨hlive, rfl⟩

theorem exec_wrapwr {s : State} {se : SideEffect} (hlive : s.live = true) (hse : se.wellFormed = true) (sp : Space)
    (a p : Addr) : exec (.wrapwr sp a (.write (.tramp se)) p) s = .next (s.wrapWrite sp a se p) := by
  simp only [exec, execWrapwr, hse, if_true]
  exact whenLive_next_iff.mpr ⟨hlive, rfl⟩

theorem wrapRead_live (s : State) (sp : Space) (a : Addr) (se : SideEffect) (p : Addr) :
    (s.wrapRead sp a se p).live = s.live :=
  live_congr (by rw [State.wrapRead, putReadEntry_phase, addRecord_phase])

theorem wrapRead_wr (s : State) (sp : Space) (a : Addr) (se : SideEffect) (p : Addr) (sp' : Space) :
    ((s.wrapRead sp a se p).bus sp').wr = (s.bus sp').wr := by
  rw [State.wrapRead, putReadEntry_wr, addRecord_bus]

theorem wrapWrite_rd (s : State) (sp : Space) (a : Addr) (se : SideEffect) (p : Addr) (sp' : Space) :
    ((s.wrapWrite sp a se p).bus sp').rd = (s.bus sp').rd := by
  rw [State.wrapWrite, putWriteEntry_rd, addRecord_bus]

theorem wrapWrite_tramp (s : State) (sp : Space) (a : Addr) (se : SideEffect) (p : Addr) :
    (s.wrapWrite sp a se p).tramp = s.tramp ++ [⟨.wr (s.writeEntry sp a), .mapper⟩] := by
  rw [State.wrapWrite, putWriteEntry_tramp, addRecord_tramp]

/-- The trampoline stands at the wrapped address; every other entry is the one before the new record (R221). -/
theorem writeEntry_wrapWrite (s : State) (sp : Space) (a : Addr) (se : SideEffect) (p : Addr) (sp' : Space) (b : Addr) :
    (s.wrapWrite sp a se p).writeEntry sp' b
      = if sp' = sp ∧ entryIndex sp b = entryIndex sp a then ⟨.tramp se, .tramp s.tramp.length, p⟩
        else s.writeEntry sp' b := by
  rw [State.wrapWrite, writeEntry_putWriteEntry, State.writeEntry, addRecord_bus, State.writeEntry]

/-- Settles O26: each wrap completes with `wrapRead` or `wrapWrite`, and the rules of these say what it holds. -/
theorem wrapCapturesThenInstalls : Obligations.WrapCapturesThenInstalls := by
  intro s sp a se param hlive hse
  refine ⟨⟨_, exec_wraprd hlive hse sp a param, ?_⟩, ⟨_, exec_wrapwr hlive hse sp a param, ?_⟩⟩
  · exact ⟨wrapRead_tramp s sp a se param, readEntry_wrapRead s sp a se param, wrapRead_wr s sp a se param,
      wrapRead_sameOutsideTables s sp a se param⟩
  · exact ⟨wrapWrite_tramp s sp a se param, writeEntry_wrapWrite s sp a se param, wrapWrite_rd s sp a se param,
      wrapWrite_sameOutsideTables s sp a se param⟩

/-! ### Forwarding -/

/-- What a record of a sound state holds is a sound reference of that state (R226). -/
theorem readRefOk_of_record {s : State} (hs : s.trampsOk) {k : Nat} {h : ReadRef} {o : Ctx}
    (hk : s.tramp[k]? = some ⟨.rd h, o⟩) : readRefOk s.tramp s.tramp.length h :=
  readRefOk_mono (List.getElem?_eq_some_iff.mp hk).1.le (hs.2 k _ hk)

theorem writeRefOk_of_record {s : State} (hs : s.trampsOk) {k : Nat} {h : WriteRef} {o : Ctx}
    (hk : s.tramp[k]? = some ⟨.wr h, o⟩) : writeRefOk s.tramp s.tramp.length h :=
  writeRefOk_mono (List.getElem?_eq_some_iff.mp hk).1.le (hs.2 k _ hk)

/-- The handler a trampoline forwards to runs in the state its side effect left, where its reference is still sound
(R222). -/
theorem exec_rdTramp {s : State} (hs : s.trampsOk) {k : Nat} {h : ReadRef} {o : Ctx}
    (hk : s.tramp[k]? = some ⟨.rd h, o⟩) (c : ReadCall) (se : SideEffect) :
    exec (.rdTramp c k se) s = exec (readInstr ⟨c.sp, h.param⟩ (ctxIndex h.ctx) h.fn) (s.runSideEffect se) := by
  have hok := readRefOk_of_record (runSideEffect_trampsOk hs se) (by rwa [runSideEffect_tramp])
  calc exec (.rdTramp c k se) s
      = dispatchRead h c.sp (s.runSideEffect se) := dispatchRead_tramp hs hk se c.param c.sp
    _ = _ := (exec_readInstr _ c.sp h hok).symm

/-- The same of a write, which forwards its byte (R223). -/
theorem exec_wrTramp {s : State} (hs : s.trampsOk) {k : Nat} {h : WriteRef} {o : Ctx}
    (hk : s.tramp[k]? = some ⟨.wr h, o⟩) (c : WriteCall) (se : SideEffect) :
    exec (.wrTramp c k se) s
      = exec (writeInstr ⟨c.sp, h.param, c.v⟩ (ctxIndex h.ctx) h.fn) (s.runSideEffect se) := by
  have hok := writeRefOk_of_record (runSideEffect_trampsOk hs se) (by rwa [runSideEffect_tramp])
  calc exec (.wrTramp c k se) s
      = dispatchWrite h c.sp c.v (s.runSideEffect se) := dispatchWrite_tramp hs hk se c.param c.sp c.v
    _ = _ := (exec_writeInstr _ c.sp c.v h hok).symm

/-- Settles O9: the read half and the write half, each by the dispatch its trampoline forwards to. -/
theorem trampolineForwards : Obligations.TrampolineForwards :=
  fun _ hs => ⟨fun c _ se _ _ hk => exec_rdTramp hs hk c se, fun c _ se _ _ hk => exec_wrTramp hs hk c se⟩

/-! ### Two wraps of one address -/

/-- The record a wrap appends holds the entry it wrapped (R220). -/
theorem wrapRead_record (s : State) (sp : Space) (a : Addr) (se : SideEffect) (p : Addr) :
    (s.wrapRead sp a se p).tramp[s.tramp.length]? = some ⟨.rd (s.readEntry sp a), .mapper⟩ := by
  rw [wrapRead_tramp, List.getElem?_concat_length]

/-- A wrap keeps the records before it (R34). -/
theorem wrapRead_keeps_record {s : State} {k : Nat} {r : TrampRecord} (hk : s.tramp[k]? = some r) (sp : Space)
    (a : Addr) (se : SideEffect) (p : Addr) : (s.wrapRead sp a se p).tramp[k]? = some r := by
  rw [wrapRead_tramp, List.getElem?_append_left (List.getElem?_eq_some_iff.mp hk).1, hk]

theorem readEntry_wrapRead_self (s : State) (sp : Space) (a : Addr) (se : SideEffect) (p : Addr) :
    (s.wrapRead sp a se p).readEntry sp a = ⟨.tramp se, .tramp s.tramp.length, p⟩ := by
  rw [readEntry_wrapRead, if_pos ⟨rfl, rfl⟩]

/-- Settles O10: the read meets the second trampoline, whose record holds the first, whose record holds `h`; each
forwards after its side effect (R222). -/
theorem twoWrapsRunBothSideEffects : Obligations.TwoWrapsRunBothSideEffects := by
  intro s sp x p1 p2 se1 se2 hs hlive hse1 hse2
  let t := s.wrapRead sp x se1 p1
  let u := t.wrapRead sp x se2 p2
  have hlive' : t.live = true := (wrapRead_live s sp x se1 p1).trans hlive
  refine ⟨t, u, exec_wraprd hlive hse1 sp x p1, exec_wraprd hlive' hse2 sp x p2, ?_⟩
  have hu : u.trampsOk := wrapRead_trampsOk (wrapRead_trampsOk hs sp x se1 p1) sp x se2 p2
  have hfirst : t.readEntry sp x = ⟨.tramp se1, .tramp s.tramp.length, p1⟩ := readEntry_wrapRead_self ..
  have hsecond : u.readEntry sp x = ⟨.tramp se2, .tramp t.tramp.length, p2⟩ := readEntry_wrapRead_self ..
  have hrec1 : (u.runSideEffect se2).tramp[s.tramp.length]? = some ⟨.rd (s.readEntry sp x), .mapper⟩ := by
    rw [runSideEffect_tramp]
    exact wrapRead_keeps_record (wrapRead_record s sp x se1 p1) sp x se2 p2
  have hrec2 : u.tramp[t.tramp.length]? = some ⟨.rd ⟨.tramp se1, .tramp s.tramp.length, p1⟩, .mapper⟩ :=
    hfirst ▸ wrapRead_record t sp x se2 p2
  calc exec (.rd sp x) u
      = exec (.rdTramp ⟨sp, p2⟩ t.tramp.length se2) u := congrArg (dispatchRead · sp u) hsecond
    _ = exec (.rdTramp ⟨sp, p1⟩ s.tramp.length se1) (u.runSideEffect se2) := exec_rdTramp hu hrec2 ⟨sp, p2⟩ se2
    _ = _ := exec_rdTramp (runSideEffect_trampsOk hu se2) hrec1 ⟨sp, p1⟩ se1

/-! ### The side effect -/

theorem sideEffect_wellFormed_iff {w st : Byte} :
    SideEffect.wellFormed (.latch w st) = true ↔ (w = 0 ∨ w = 1) ∧ (st = 1 ∨ st = 2) := by
  have hw : w.toNat ≤ 1 ↔ w = 0 ∨ w = 1 := by bv_omega
  simp only [SideEffect.wellFormed, Bool.and_eq_true, decide_eq_true_eq, Bool.or_eq_true, beq_iff_eq, hw]

/-- A legal side effect puts `A` for code 1 and `B` for code 2 in the latch of its window and keeps the other latch
(R103, R224). -/
theorem setLatch_of_wellFormed {w st : Byte} (h : SideEffect.wellFormed (.latch w st) = true) (r : Latches) :
    let new : Latch := if st = 1 then .a else .b
    setLatch r w st = ⟨if w = 0 then new else r.latch0, if w = 1 then new else r.latch1⟩ := by
  obtain ⟨rfl | rfl, rfl | rfl⟩ := sideEffect_wellFormed_iff.mp h <;> rfl

/-- Where the state holds latches, the side effect sets them and nothing else (R224). -/
theorem runSideEffect_of_latch {s : State} {r : Latches} (h : s.family = .latch r) (w st : Byte) :
    s.runSideEffect (.latch w st) = s.setFamily (.latch (setLatch r w st)) := by
  rw [State.runSideEffect, h]

/-- Settles O50: the step is the side effect on the latches the state holds. -/
theorem latchSideEffect : Obligations.LatchSideEffect := by
  intro w st s r hwf hfam new r'
  calc exec (.seLatch w st) s
      = .next (s.setFamily (.latch (setLatch r w st))) := congrArg Host.Outcome.next (runSideEffect_of_latch hfam w st)
    _ = .next (s.setFamily (.latch r')) := by rw [setLatch_of_wellFormed hwf r]

end Sys2Proof.Proofs
end

section
/-! SUPPORT. The protocol families (spec/45_mapper_families.md R236 to R251): latched windows (O17), serial writes (O46,
O47), indexed writes (O48) and direct writes (O49). A recompute is first put in the terms of the banks it asks for. -/

namespace Sys2Proof.Proofs

open Sys2Proof Sys2Proof.Machine Sys2Proof.Laws

/-! ### Latched windows -/

section Latched

variable {s : State} {r : Latches} (hfam : s.family = .latch r) {w : Bool} (slotA slotB : Slot) (log2 : Byte)
include hfam

theorem kindRdChrLatched_of_undef (h : latchOf r w = .undef) (p : Addr) (out : Byte) :
    kindRdChrLatched w slotA log2 slotB p out s = (s, out) := by
  simp only [kindRdChrLatched, hfam, h]

theorem exec_rdChrLatched_of_a (h : latchOf r w = .a) (c : ReadCall) :
    exec (.rdChrLatched c w slotA log2 slotB) s = exec (.rdChr c slotA log2) s := by
  simp only [exec, execRdChrLatched, execRdChr, State.readThrough, kindRdChrLatched, hfam, h]

theorem exec_rdChrLatched_of_b (h : latchOf r w = .b) (c : ReadCall) :
    exec (.rdChrLatched c w slotA log2 slotB) s = exec (.rdChr c slotB log2) s := by
  simp only [exec, execRdChrLatched, execRdChr, State.readThrough, kindRdChrLatched, hfam, h]

end Latched

theorem kindRdChrLatched_of_no_latch {s : State} (h : ∀ r, s.family ≠ .latch r) (w : Bool) (slotA slotB : Slot)
    (log2 : Byte) (p : Addr) (out : Byte) : kindRdChrLatched w slotA log2 slotB p out s = (s, out) := by
  cases hfam : s.family with
  | latch r => exact absurd hfam (h r)
  | _ => rw [kindRdChrLatched, hfam]

/-- Settles O17: with its latch set the window is the CHR window of that slot (O16); else the kind changes nothing. -/
theorem latchedWindowRead : Obligations.LatchedWindowRead := by
  intro c w slotA slotB log2 s
  refine ⟨fun r hfam h => ?_, fun r hfam h => ?_, fun r hfam h => ?_, fun h => ?_⟩
  · exact congrArg Host.Outcome.next (readThrough_of_unchanged (kindRdChrLatched_of_undef hfam slotA slotB log2 h _ _))
  · obtain ⟨v, hv, hread, -⟩ := chrWindowRead c slotA log2 s
    exact ⟨v, hv, (exec_rdChrLatched_of_a hfam slotA slotB log2 h c).trans hread⟩
  · obtain ⟨v, hv, hread, -⟩ := chrWindowRead c slotB log2 s
    exact ⟨v, hv, (exec_rdChrLatched_of_b hfam slotA slotB log2 h c).trans hread⟩
  · exact congrArg Host.Outcome.next (readThrough_of_unchanged (kindRdChrLatched_of_no_latch h w slotA slotB log2 _ _))

/-! ### Direct writes -/

theorem setLast_prgSize (s : State) (sp : Space) (v : Byte) : (s.setLast sp v).prgSize = s.prgSize := by
  rw [State.prgSize, setLast_rom]; rfl

theorem setLast_chrMemSize (s : State) (sp : Space) (v : Byte) : (s.setLast sp v).chrMemSize = s.chrMemSize := by
  rw [State.chrMemSize, State.chrSize, setLast_rom]; rfl

/-- Settles O49: the write is one `SetPrgBank` or `SetChrBank` of the masked byte after the last bus value is set. -/
theorem directWriteSetsOneSlot : Obligations.DirectWriteSetsOneSlot := by
  intro c slot log2 mask s
  refine ⟨⟨(s.setLast c.sp c.v).setPrgBank slot (2 ^ log2.toNat) (c.v &&& mask).toNat, rfl, fun x => ?_, ?_⟩,
    ⟨(s.setLast c.sp c.v).setChrBank slot (2 ^ log2.toNat) (c.v &&& mask).toNat, rfl, fun x => ?_, ?_⟩⟩
  · rw [setPrgBank_prgBank, slotGet_slotSet, setLast_prgSize, setLast_prgBank]
  · rw [← setLast_prgBank s c.sp c.v]; rfl
  · rw [setChrBank_chrBank, slotGet_slotSet, setLast_chrMemSize, setLast_chrBank]
  · rw [← setLast_chrBank s c.sp c.v]; rfl

/-! ### Several slots at once -/

/-- The slots of `l` set in order, each to the byte `val` gives it. -/
def setSlots (val : Slot → Byte) (f : SlotFile) (l : List Slot) : SlotFile :=
  l.foldl (fun f x => slotSet f x (val x)) f

theorem slotGet_setSlots (val : Slot → Byte) (f : SlotFile) (l : List Slot) (x : Slot) :
    slotGet (setSlots val f l) x = if x ∈ l then val x else slotGet f x := by
  induction l generalizing f with
  | nil => rfl
  | cons y l ih =>
    rw [setSlots, List.foldl_cons, ← setSlots, ih, slotGet_slotSet]
    by_cases hl : x ∈ l
    · rw [if_pos hl, if_pos (List.mem_cons_of_mem y hl)]
    · by_cases hy : x = y
      · rw [if_neg hl, if_pos hy, if_pos (hy ▸ List.mem_cons_self), hy]
      · rw [if_neg hl, if_neg hy, if_neg (by simp [hl, hy])]

/-! ### The serial recompute -/

theorem serialMirrorTable_getElem (ctl : BitVec 5) :
    serialMirrorTable[ctl.toNat % 4]? = some (serialMirror ctl) := by
  revert ctl; decide

theorem prgField_toNat (p : BitVec 5) : (p &&& 0x0F).toNat = p.toNat % 16 := by
  revert p; decide

theorem prgField_even_toNat (p : BitVec 5) : (p &&& 0x0F &&& 0x0E).toNat = 2 * (p.toNat % 16 / 2) := by
  revert p; decide

theorem prgField_odd_toNat (p : BitVec 5) : ((p &&& 0x0F &&& 0x0E) ||| 1).toNat = 2 * (p.toNat % 16 / 2) + 1 := by
  revert p; decide

theorem chrField_even_toNat (b : BitVec 5) : (b &&& 0x1E).toNat = 2 * (b.toNat / 2) := by
  revert b; decide

theorem chrField_odd_toNat (b : BitVec 5) : ((b &&& 0x1E) ||| 1).toNat = 2 * (b.toNat / 2) + 1 := by
  revert b; decide

theorem ctlPrgMode_toNat (ctl : BitVec 5) : (ctl.extractLsb' 2 2).toNat = ctl.toNat / 4 % 4 := by
  rw [BitVec.extractLsb'_toNat, Nat.shiftRight_eq_div_pow]

theorem ctlChrMode_iff (ctl : BitVec 5) : ctl.getLsbD 4 = true ↔ ctl.toNat / 16 = 1 := by
  revert ctl; decide

/-- The PRG part sets slots 0 and 1 to the banks asked for (R237). -/
theorem serialPrg_eq (s : State) (r : Serial) :
    s.serialPrg r = (s.setPrgBank 0 16384 (serialPrgWanted r).1).setPrgBank 1 16384 (serialPrgWanted r).2 := by
  unfold State.serialPrg serialPrgWanted
  simp only [prgField_toNat, prgField_even_toNat, prgField_odd_toNat, ctlPrgMode_toNat]
  split
  · next h => simp [h]
  · next h => simp [h]
  · next h2 h3 => rw [if_neg h2, if_neg h3]; push_cast; rfl

/-- The CHR part sets slots 0 and 1 to the banks asked for (R237). -/
theorem serialChr_eq (s : State) (r : Serial) :
    s.serialChr r = (s.setChrBank 0 4096 (serialChrWanted r).1).setChrBank 1 4096 (serialChrWanted r).2 := by
  unfold State.serialChr serialChrWanted
  simp only [chrField_even_toNat, chrField_odd_toNat, ctlChrMode_iff]
  split
  · rfl
  · push_cast; rfl

theorem slotGet_slotSet_zero_one (f : SlotFile) (a b : Byte) (x : Slot) :
    slotGet (slotSet (slotSet f 0 a) 1 b) x = if x = 0 then a else if x = 1 then b else slotGet f x := by
  rw [slotGet_slotSet, slotGet_slotSet]
  by_cases h0 : x = 0
  · subst h0; rfl
  · rw [if_neg h0, if_neg h0]

theorem serialRecomputed_serialRecompute (s : State) (r : Serial) : serialRecomputed s (s.serialRecompute r) r := by
  rw [State.serialRecompute, setMirror_eq, serialPrg_eq, serialChr_eq]
  exact ⟨serialMirrorTable_getElem r.ctl, slotGet_slotSet_zero_one _ _ _, slotGet_slotSet_zero_one _ _ _⟩

theorem serialRecompute_restored (s : State) (r : Serial) :
    { s.serialRecompute r with prgBank := s.prgBank, chrBank := s.chrBank, mirrorMode := s.mirrorMode } = s := by
  obtain ⟨p, c, m, h⟩ := serialRecompute_changes s r
  rw [h]

/-- After the last bus value and the family are set, a recompute gives the banks and the mode of the state before, and
changes nothing else. -/
theorem serialRecompute_of_setLast (s : State) (sp : Space) (v : Byte) (r : Serial) :
    let t := ((s.setLast sp v).setFamily (.serial r)).serialRecompute r
    serialRecomputed s t r
      ∧ { t with prgBank := s.prgBank, chrBank := s.chrBank, mirrorMode := s.mirrorMode }
        = { s.setLast sp v with family := .serial r } := by
  have hbanks := serialRecomputed_serialRecompute ((s.setLast sp v).setFamily (.serial r)) r
  have hrest := serialRecompute_restored ((s.setLast sp v).setFamily (.serial r)) r
  cases sp <;> exact ⟨hbanks, hrest⟩

/-! ### One serial write -/

/-- The registers after a write with bit 7 set (R236). -/
def serialAbandoned (r : Serial) : Serial := { r with shVal := 0, shCnt := 0, ctl := r.ctl ||| 0x0C }

/-- The registers after a bit is shifted in (R236). -/
def serialShifted (v : Byte) (r : Serial) : Serial := { r with shVal := serialShiftIn v r, shCnt := r.shCnt + 1 }

/-- The registers after a fifth bit: the value in the register that address bits 14:13 choose (R100, R236). -/
def serialCommitted (p : Addr) (value : BitVec 5) (r : Serial) : Serial :=
  let target := p.toNat / 8192 % 4
  { shVal := 0, shCnt := 0
    ctl := if target = 0 then value else r.ctl
    chr0 := if target = 1 then value else r.chr0
    chr1 := if target = 2 then value else r.chr1
    prgreg := if target = 3 then value else r.prgreg }

theorem serialCommit_eq (p : Addr) (value : BitVec 5) (r : Serial) :
    { serialCommit p value r with shVal := 0, shCnt := 0 } = serialCommitted p value r := by
  have htarget : (p.extractLsb' 13 2).toNat = p.toNat / 8192 % 4 := by
    rw [BitVec.extractLsb'_toNat, Nat.shiftRight_eq_div_pow]
  have hlt : p.toNat / 8192 % 4 < 4 := Nat.mod_lt _ (by decide)
  rw [serialCommit, serialCommitted, htarget]
  generalize p.toNat / 8192 % 4 = target at hlt
  obtain rfl | rfl | rfl | rfl : target = 0 ∨ target = 1 ∨ target = 2 ∨ target = 3 := by omega
  all_goals rfl

theorem shCnt_succ_eq_five_iff (n : BitVec 3) : n + 1 = 5 ↔ n = 4 := by
  revert n; decide

section SerialWrite

variable {c : WriteCall} {s : State} {r : Serial} (hfam : s.family = .serial r)
include hfam

theorem exec_wrShift_reset (h7 : c.v.getLsbD 7 = true) :
    exec (.wrShift c) s
      = .next (((s.setLast c.sp c.v).setFamily (.serial (serialAbandoned r))).serialRecompute (serialAbandoned r)) := by
  simp only [exec, execWrShift, State.writeThrough, kindWrShift, setLast_family, hfam, h7, if_true]
  rfl

theorem exec_wrShift_shift (h7 : c.v.getLsbD 7 = false) (hcnt : r.shCnt ≠ 4) :
    exec (.wrShift c) s = .next { s.setLast c.sp c.v with family := .serial (serialShifted c.v r) } := by
  simp only [exec, execWrShift, State.writeThrough, kindWrShift, setLast_family, hfam, h7, shCnt_succ_eq_five_iff,
    hcnt, if_false, Bool.false_eq_true]
  rfl

theorem exec_wrShift_commit (h7 : c.v.getLsbD 7 = false) (hcnt : r.shCnt = 4) :
    let r' := serialCommitted c.param (serialShiftIn c.v r) r
    exec (.wrShift c) s = .next (((s.setLast c.sp c.v).setFamily (.serial r')).serialRecompute r') := by
  simp only [exec, execWrShift, State.writeThrough, kindWrShift, setLast_family, hfam, h7, shCnt_succ_eq_five_iff,
    hcnt, if_true, if_false, Bool.false_eq_true, serialCommit_eq]

end SerialWrite

/-- Settles O46: the three cases of `WR_SHIFT`, with the recompute in terms of the banks it asks for. -/
theorem serialWrite : Obligations.SerialWrite := by
  intro c s r hfam value u
  refine ⟨fun h7 => ?_, fun h7 hcnt => exec_wrShift_shift hfam h7 hcnt, fun h7 hcnt => ?_⟩
  · exact ⟨_, exec_wrShift_reset hfam h7, serialRecompute_of_setLast s c.sp c.v (serialAbandoned r)⟩
  · exact ⟨_, exec_wrShift_commit hfam h7 hcnt,
      serialRecompute_of_setLast s c.sp c.v (serialCommitted c.param value r)⟩

/-! ### Five serial writes -/

/-- The number whose bits are bit 0 of each byte, the first lowest (R236). -/
def serialBits : List Byte → Nat
  | [] => 0
  | v :: vs => v.toNat % 2 + 2 * serialBits vs

/-- A bit shifted in above the bits held adds its weight (R236). -/
theorem serialShiftIn_toNat {r : Serial} (hcnt : r.shCnt.toNat < 5) (hval : r.shVal.toNat < 2 ^ r.shCnt.toNat)
    (v : Byte) : (serialShiftIn v r).toNat = r.shVal.toNat + 2 ^ r.shCnt.toNat * (v.toNat % 2) := by
  have hbit : ((BitVec.ofBool (v.getLsbD 0)).setWidth 5).toNat = v.toNat % 2 := by
    rw [getLsbD_iff]
    obtain h | h := Nat.mod_two_eq_zero_or_one v.toNat <;> simp [h]
  have hpow : 2 ^ r.shCnt.toNat ≤ 2 ^ 4 := Nat.pow_le_pow_right (by decide) (by omega)
  have hfit : 2 ^ r.shCnt.toNat * (v.toNat % 2) < 2 ^ 5 :=
    calc 2 ^ r.shCnt.toNat * (v.toNat % 2)
        ≤ 2 ^ 4 * 1 := Nat.mul_le_mul hpow (by omega)
      _ < 2 ^ 5 := by decide
  rw [serialShiftIn, BitVec.toNat_or, BitVec.toNat_shiftLeft, hbit, Nat.shiftLeft_eq, Nat.mul_comm,
    Nat.mod_eq_of_lt hfit, Nat.or_comm, ← Nat.two_pow_add_eq_or_of_lt hval, Nat.add_comm]

theorem execShifts_cons_of_next {c : WriteCall} {v : Byte} {s t : State}
    (h : exec (.wrShift { c with v := v }) s = .next t) (vs : List Byte) :
    execShifts c (v :: vs) s = execShifts c vs t := by
  rw [execShifts, h]

/-- Writes that shift in the missing bits of a sequence, the last one the fifth, commit the bits held and the bits
written above them (R236). -/
theorem execShifts_commits (c : WriteCall) (v : Byte) (vs : List Byte) {s : State} {r : Serial}
    (hfam : s.family = .serial r) (hcnt : r.shCnt.toNat + vs.length = 4) (hval : r.shVal.toNat < 2 ^ r.shCnt.toNat)
    (h7 : ∀ x ∈ vs ++ [v], x.getLsbD 7 = false) :
    ∃ t value, execShifts c (vs ++ [v]) s = .next t ∧ t.family = .serial (serialCommitted c.param value r)
      ∧ value.toNat = r.shVal.toNat + 2 ^ r.shCnt.toNat * serialBits (vs ++ [v]) := by
  induction vs generalizing s r with
  | nil =>
    have hfour : r.shCnt = 4 := BitVec.eq_of_toNat_eq hcnt
    refine ⟨_, serialShiftIn v r,
      execShifts_cons_of_next (exec_wrShift_commit (c := { c with v := v }) hfam (h7 v (by simp)) hfour) [],
      serialRecompute_family _ _, ?_⟩
    rw [serialShiftIn_toNat (by rw [hfour]; decide) hval]
    rfl
  | cons x xs ih =>
    rw [List.length_cons] at hcnt
    have hne : r.shCnt ≠ 4 := by bv_omega
    have hsucc : (serialShifted x r).shCnt.toNat = r.shCnt.toNat + 1 := by
      change (r.shCnt + 1).toNat = _
      bv_omega
    have hshift : (serialShifted x r).shVal.toNat = r.shVal.toNat + 2 ^ r.shCnt.toNat * (x.toNat % 2) :=
      serialShiftIn_toNat (by omega) hval x
    have hbit : 2 ^ r.shCnt.toNat * (x.toNat % 2) ≤ 2 ^ r.shCnt.toNat * 1 :=
      Nat.mul_le_mul_left _ (Nat.le_of_lt_succ (Nat.mod_lt _ (by decide)))
    have hval' : (serialShifted x r).shVal.toNat < 2 ^ (serialShifted x r).shCnt.toNat := by
      rw [hshift, hsucc, Nat.pow_succ]
      omega
    obtain ⟨t, value, hrun, ht, hv⟩ := ih (s := { s.setLast c.sp x with family := .serial (serialShifted x r) }) rfl
      (by omega) hval'
      fun y hy => h7 y (List.mem_cons_of_mem x hy)
    refine ⟨t, value, ?_, ht, ?_⟩
    · exact (execShifts_cons_of_next
        (exec_wrShift_shift (c := { c with v := x }) hfam (h7 x List.mem_cons_self) hne) _).trans hrun
    · rw [hv, hshift, hsucc, List.cons_append, serialBits]
      ring

/-- Settles O47: the sequence of five from an empty shift register. -/
theorem fiveSerialWritesAssembleARegister : Obligations.FiveSerialWritesAssembleARegister := by
  intro c s r v0 v1 v2 v3 v4 hfam hcnt hval h7
  obtain ⟨t, value, hrun, ht, hv⟩ := execShifts_commits c v4 [v0, v1, v2, v3] hfam
    (by rw [hcnt]; rfl) (by rw [hval, hcnt]; decide) h7
  have hbits : value.toNat = v0.toNat % 2 + 2 * (v1.toNat % 2) + 4 * (v2.toNat % 2) + 8 * (v3.toNat % 2)
      + 16 * (v4.toNat % 2) := by
    rw [hval, hcnt] at hv
    calc value.toNat
        = 0 + 2 ^ 0 * serialBits [v0, v1, v2, v3, v4] := hv
      _ = _ := by simp only [serialBits]; ring
  refine ⟨t, serialCommitted c.param value r, hrun, ht, rfl, rfl, ?_⟩
  simp only [serialCommitted, ← hbits, apply_ite BitVec.toNat, and_self]

/-! ### The indexed recompute -/

theorem evenBank_toNat (b : Byte) : (b &&& 0xFE).toNat = 2 * (b.toNat / 2) := by
  revert b; decide

theorem oddBank_toNat (b : Byte) : (b ||| 1).toNat = 2 * (b.toNat / 2) + 1 := by
  revert b; decide

/-- The CHR slots of the positions 0 to 7, which `CINV` moves by four (R242). -/
def indexedChrSlots (sel : Byte) : List Slot := [0, 1, 2, 3, 4, 5, 6, 7].map (indexedChrSlot sel)

theorem mem_indexedChrSlots (sel : Byte) (x : Slot) : x ∈ indexedChrSlots sel ↔ x.toNat < 8 := by
  unfold indexedChrSlots indexedChrSlot
  cases sel.getLsbD 7 <;> revert x <;> decide

theorem mem_indexedPrgSlots (x : Slot) : x ∈ [(0 : Slot), 2, 1, 3] ↔ x.toNat < 4 := by
  revert x; decide

/-- The byte asked for in a CHR slot (R242). -/
def indexedChrByte (s : State) (r : Indexed) (x : Slot) : Byte :=
  normalizeBank (indexedChrWanted r (if r.sel.getLsbD 7 then (x.toNat + 4) % 8 else x.toNat)) s.chrMemSize 1024

/-- The byte asked for in a PRG slot (R242). -/
def indexedPrgByte (s : State) (r : Indexed) (x : Slot) : Byte :=
  normalizeBank (indexedPrgWanted r x.toNat) s.prgSize 8192

/-- The slot of a position leads back to the position: moving by four twice is moving by eight. -/
theorem position_indexedChrSlot (sel : Byte) (n : BitVec 3) :
    (if sel.getLsbD 7 then ((indexedChrSlot sel n).toNat + 4) % 8 else (indexedChrSlot sel n).toNat) = n.toNat := by
  unfold indexedChrSlot
  cases sel.getLsbD 7 <;> revert n <;> decide

theorem indexedChrByte_indexedChrSlot (s : State) (r : Indexed) (n : BitVec 3) :
    indexedChrByte s r (indexedChrSlot r.sel n) = normalizeBank (indexedChrWanted r n.toNat) s.chrMemSize 1024 := by
  rw [indexedChrByte, position_indexedChrSlot]

theorem setChrBank_chrMemSize (s : State) (slot : Slot) (size : Nat) (idx : Int) :
    (s.setChrBank slot size idx).chrMemSize = s.chrMemSize := rfl

theorem setPrgBank_prgSize (s : State) (slot : Slot) (size : Nat) (idx : Int) :
    (s.setPrgBank slot size idx).prgSize = s.prgSize := rfl

theorem indexedChr_chrBank (s : State) (r : Indexed) :
    (s.indexedChr r).chrBank = setSlots (indexedChrByte s r) s.chrBank (indexedChrSlots r.sel) := by
  simp only [State.indexedChr, setChrBank_chrBank, setChrBank_chrMemSize, evenBank_toNat, oddBank_toNat]
  simp only [setSlots, indexedChrSlots, List.map, List.foldl, indexedChrByte_indexedChrSlot]
  rfl

theorem indexedPrg_prgBank (s : State) (r : Indexed) :
    (s.indexedPrg r).prgBank = setSlots (indexedPrgByte s r) s.prgBank [0, 2, 1, 3] := by
  cases h : r.sel.getLsbD 6 <;>
    simp only [State.indexedPrg, h, if_true, if_false, Bool.false_eq_true, setPrgBank_prgBank, setPrgBank_prgSize,
      setSlots, List.foldl, indexedPrgByte, indexedPrgWanted] <;>
    rfl

theorem indexedChr_prgBank (s : State) (r : Indexed) : (s.indexedChr r).prgBank = s.prgBank := by
  simp only [State.indexedChr, setChrBank_prgBank]

theorem indexedChr_prgSize (s : State) (r : Indexed) : (s.indexedChr r).prgSize = s.prgSize := by
  simp only [State.prgSize, State.indexedChr, setChrBank_rom]

theorem indexedPrg_chrBank (s : State) (r : Indexed) : (s.indexedPrg r).chrBank = s.chrBank := by
  simp only [State.indexedPrg, setPrgBank_chrBank]
  split <;> rfl

theorem indexedRecomputed_indexedRecompute (s : State) (r : Indexed) :
    indexedRecomputed s (s.indexedRecompute r) r := by
  refine ⟨fun x => ?_, fun x => ?_⟩
  · rw [State.indexedRecompute, indexedPrg_chrBank, indexedChr_chrBank, slotGet_setSlots]
    exact if_congr (mem_indexedChrSlots r.sel x) rfl rfl
  · rw [State.indexedRecompute, indexedPrg_prgBank, slotGet_setSlots, indexedPrgByte, indexedChr_prgSize,
      indexedChr_prgBank]
    exact if_congr (mem_indexedPrgSlots x) rfl rfl

theorem indexedRecompute_restored (s : State) (r : Indexed) :
    { s.indexedRecompute r with prgBank := s.prgBank, chrBank := s.chrBank } = s := by
  obtain ⟨p, c, h⟩ := indexedRecompute_changes s r
  rw [h]

/-- After the last bus value and the family are set, a recompute gives the banks of the state before, and changes
nothing else. -/
theorem indexedRecompute_of_setLast (s : State) (sp : Space) (v : Byte) (r : Indexed) :
    let t := ((s.setLast sp v).setFamily (.indexed r)).indexedRecompute r
    indexedRecomputed s t r
      ∧ { t with prgBank := s.prgBank, chrBank := s.chrBank } = { s.setLast sp v with family := .indexed r } := by
  have hbanks := indexedRecomputed_indexedRecompute ((s.setLast sp v).setFamily (.indexed r)) r
  have hrest := indexedRecompute_restored ((s.setLast sp v).setFamily (.indexed r)) r
  cases sp <;> exact ⟨hbanks, hrest⟩

/-! ### Indexed writes -/

section IndexedWrites

variable {s : State} {r : Indexed} (hfam : s.family = .indexed r)
include hfam

theorem exec_wrSelect_indexed (c : WriteCall) :
    let r' := { r with sel := c.v }
    exec (.wrSelect c) s = .next (((s.setLast c.sp c.v).setFamily (.indexed r')).indexedRecompute r') := by
  simp only [exec, execWrSelect, State.writeThrough, kindWrSelect, setLast_family, hfam]

theorem exec_wrData_indexed (c : WriteCall) :
    let r' := { r with r := regSet r.r (r.sel.extractLsb' 0 3) c.v }
    exec (.wrData c) s = .next (((s.setLast c.sp c.v).setFamily (.indexed r')).indexedRecompute r') := by
  simp only [exec, execWrData, State.writeThrough, kindWrData, setLast_family, hfam]

end IndexedWrites

theorem eq_selTarget_iff (i : BitVec 3) (sel : Byte) : i = sel.extractLsb' 0 3 ↔ i.toNat = sel.toNat % 8 := by
  rw [BitVec.toNat_eq, BitVec.extractLsb'_toNat, Nat.shiftRight_zero]

/-- Settles O48: both writes recompute from the new registers, and a data write sets the target register alone. -/
theorem indexedWrites : Obligations.IndexedWrites := by
  intro c s r hfam
  refine ⟨⟨_, exec_wrSelect_indexed hfam c, indexedRecompute_of_setLast s c.sp c.v _⟩, ?_⟩
  obtain ⟨hbanks, hrest⟩ :=
    indexedRecompute_of_setLast s c.sp c.v { r with r := regSet r.r (r.sel.extractLsb' 0 3) c.v }
  refine ⟨_, _, exec_wrData_indexed hfam c, hbanks, rfl, fun i => ?_, hrest⟩
  exact (regGet_regSet _ _ _ _).trans (if_congr (eq_selTarget_iff i r.sel) rfl rfl)

end Sys2Proof.Proofs
end

section
/-! SUPPORT. The lifecycle commands and hooks (spec/47_host_interface.md R300 to R309): what a record's initialisations
leave in a slot, and O27 and O30 to O34. -/

namespace Sys2Proof.Proofs

open Sys2Proof Sys2Proof.Machine Sys2Proof.Laws

/-! ### The initial bank registers (R302 step 2, R304) -/

/-- The last initialisation that names a slot decides: one before the rest changes only what they find there. -/
theorem initialised_cons (e : SlotInit) (l : List SlotInit) (mem : Nat) (slot : Slot) (old : Byte) :
    initialised (e :: l) mem slot old
      = initialised l mem slot (if slot = e.slot then normalizeBank e.init.toInt mem e.size else old) := by
  unfold initialised
  rw [List.reverse_cons, List.find?_append]
  cases l.reverse.find? (fun e => e.slot == slot) with
  | some e' => rfl
  | none =>
    by_cases h : slot = e.slot
    · simp [h]
    · simp [h, Ne.symm h]

theorem slotGet_foldl_initPrgWindow (l : List PrgWindow) (s : State) (slot : Slot) :
    slotGet (l.foldl State.initPrgWindow s).prgBank slot
      = initialised (l.map fun w => ⟨w.slot, w.size, w.init⟩) s.prgSize slot (slotGet s.prgBank slot) := by
  induction l generalizing s with
  | nil => rfl
  | cons w l ih =>
    rw [List.foldl_cons, ih, List.map_cons, initialised_cons, State.initPrgWindow, setPrgBank_prgSize,
      setPrgBank_prgBank, slotGet_slotSet]

/-- A latched window initialises its two slots one after the other (R302). -/
theorem slotGet_foldl_initChrWindow (v : Variant) (l : List ChrWindow) (s : State) (slot : Slot) :
    slotGet (l.foldl State.initChrWindow s).chrBank slot
      = initialised (chrInits { v with chrWindows := l }) s.chrMemSize slot (slotGet s.chrBank slot) := by
  induction l generalizing s with
  | nil => rfl
  | cons w l ih =>
    obtain ⟨base, size, source⟩ := w
    rw [List.foldl_cons, ih]
    cases source <;>
      simp only [chrInits, List.flatMap_cons, List.cons_append, List.nil_append, initialised_cons, State.initChrWindow,
        setChrBank_chrMemSize, setChrBank_chrBank, slotGet_slotSet]

theorem foldl_initPrgWindow_eq (l : List PrgWindow) (s : State) :
    l.foldl State.initPrgWindow s = { s with prgBank := (l.foldl State.initPrgWindow s).prgBank } :=
  List.foldlRecOn (motive := fun t : State => t = { s with prgBank := t.prgBank }) l _ rfl fun t ht w _ => by
    rw [ht]
    rfl

theorem initChrWindow_prgBank (s : State) (w : ChrWindow) : (s.initChrWindow w).prgBank = s.prgBank := by
  unfold State.initChrWindow
  split <;> rfl

theorem initWindows_prgBank (s : State) (slot : Slot) :
    slotGet s.initWindows.prgBank slot
      = initialised (prgInits s.params.variant) s.prgSize slot (slotGet s.prgBank slot) := by
  have hkept : s.initWindows.prgBank = (s.params.variant.prgWindows.foldl State.initPrgWindow s).prgBank :=
    List.foldlRecOn (motive := fun t => State.prgBank t = _) _ _ rfl fun t ht w _ =>
      (initChrWindow_prgBank t w).trans ht
  rw [hkept, slotGet_foldl_initPrgWindow, prgInits]

theorem initWindows_chrBank (s : State) (slot : Slot) :
    slotGet s.initWindows.chrBank slot
      = initialised (chrInits s.params.variant) s.chrMemSize slot (slotGet s.chrBank slot) := by
  rw [State.initWindows, foldl_initPrgWindow_eq, slotGet_foldl_initChrWindow s.params.variant]
  rfl

/-! ### `INIT` (R300) -/

/-- Bank 0 stays bank 0, whatever the memory and the size (R140). -/
theorem normalizeBank_zero (mem size : Nat) : normalizeBank 0 mem size = 0 := by
  simp [normalizeBank]

/-- `SanitizeRegs` leaves a file of zeros as it is (R143). -/
theorem slotGet_slotMap_zero (mem size : Nat) (slot : Slot) :
    slotGet (slotMap (fun b => normalizeBank b.toNat mem size) slotsZero) slot = 0 := by
  rw [slotGet_slotMap, slotGet_zero]
  exact normalizeBank_zero mem size

theorem initWithRom_banks (s : State) (slot : Slot) :
    slotGet s.initWithRom.prgBank slot = 0 ∧ slotGet s.initWithRom.chrBank slot = 0 :=
  ⟨slotGet_slotMap_zero _ _ slot, slotGet_slotMap_zero _ _ slot⟩

/-- Settles O27: the tables are the released ones, and the registers are those `initWithRom_eq` writes out. -/
theorem initBuildsTheInstance : Obligations.InitBuildsTheInstance := by
  intro s hwf hphase
  refine ⟨s.initWithRom, if_neg hphase, ?_⟩
  have hbanks := initWithRom_banks s
  rw [initWithRom_eq] at hbanks ⊢
  exact ⟨readEntry_releaseEntries hwf, writeEntry_releaseEntries hwf, rfl, rfl, hbanks, rfl, rfl, rfl, rfl, rfl, rfl,
    fun sp => by cases sp <;> exact ⟨rfl, rfl⟩, rfl, rfl, rfl, rfl, rfl, rfl, rfl⟩

/-! ### `APPLYMAP` outside the tables (R302 step 2, R365) -/

theorem live_eq (s : State) : s.live = decide (s.phase = .loaded ∨ s.phase = .mapped) := by
  unfold State.live
  cases s.phase <;> rfl

theorem exec_applymap {s : State} (h : s.live = true) : exec .applymap s = .next s.applyMap :=
  whenLive_next_iff.mpr ⟨h, rfl⟩

theorem mapStart_of_loaded {s : State} (h : s.phase = .loaded) : mapStart s = s.dropTramps.initWindows := if_pos h

theorem mapStart_of_mapped {s : State} (h : s.phase = .mapped) : mapStart s = s.dropTramps :=
  if_neg (by simp [h])

/-- Settles O30: outside the tables and the phase only the banks of `mapStart` are new. -/
theorem applyMapSetsInitialBanksOnce : Obligations.ApplyMapSetsInitialBanksOnce := by
  intro s hlive
  refine ⟨s.applyMap, exec_applymap hlive, ?_⟩
  obtain ⟨cr, cw, pr, pw, recs, hmap⟩ := applyMap_changes s
  rw [hmap]
  refine ⟨fun hloaded slot => ?_, fun hmapped => ?_, rfl, rfl⟩
  · rw [mapStart_of_loaded hloaded]
    exact ⟨initWindows_prgBank s.dropTramps slot, initWindows_chrBank s.dropTramps slot⟩
  · rw [mapStart_of_mapped hmapped]
    exact ⟨rfl, rfl⟩

/-! ### `RESET` (R304) -/

/-- The banks of a reset are the record's initialisations of slots that hold 0. -/
theorem resetMapper_banks (s : State) (slot : Slot) :
    slotGet s.resetMapper.prgBank slot = initialised (prgInits s.params.variant) s.prgSize slot 0
      ∧ slotGet s.resetMapper.chrBank slot = initialised (chrInits s.params.variant) s.chrMemSize slot 0 := by
  have hprg := initWindows_prgBank s.zeroBanks slot
  have hchr := initWindows_chrBank s.zeroBanks slot
  rw [State.zeroBanks, slotGet_zero] at hprg hchr
  exact ⟨hprg, hchr⟩

/-- Settles O31: beside the banks, `resetMapper_changes` writes out what the reset column gives. -/
theorem resetRestoresTheRegisters : Obligations.ResetRestoresTheRegisters := by
  intro s hlive
  refine ⟨s.resetMapper, whenLive_next_iff.mpr ⟨hlive, rfl⟩, resetMapper_banks s, ?_⟩
  obtain ⟨p, c, h⟩ := resetMapper_changes s
  rw [h]
  exact ⟨rfl, rfl, rfl, rfl, rfl, rfl⟩

/-! ### `TEARDOWN` (R308) -/

/-- No instruction leaves phase `DEAD`: of the three that set the phase, `INIT` and `APPLYMAP` are refused in it (R40,
R309). -/
theorem exec_keeps_dead {i : Instr} {s t : State} (hdead : s.phase = .dead) (h : exec i s = .next t) :
    t.phase = .dead := by
  obtain ⟨-, hkept, -⟩ := otherStateFrame i s t h
  by_cases hi : mayWritePhase i = false
  · exact (hkept hi).trans hdead
  · cases i with
    | init => rw [exec, execInit, if_pos hdead] at h; nomatch h
    | applymap =>
      obtain ⟨hlive, -⟩ := whenLive_next_iff.mp h
      rw [live_eq, hdead] at hlive
      nomatch hlive
    | teardown => cases h; rfl
    | _ => exact absurd rfl hi

/-- Settles O32: the tables are the released ones, and nothing leaves the last phase. -/
theorem teardownReleasesEverything : Obligations.TeardownReleasesEverything :=
  ⟨fun _ hwf => ⟨_, rfl, readEntry_releaseEntries hwf, writeEntry_releaseEntries hwf, rfl, rfl, rfl, rfl, rfl⟩,
    fun _ _ _ => exec_keeps_dead⟩

/-! ### The hooks (R305 to R307) -/

theorem answersFlag_respond_flag (s : State) (b : Bool) : answersFlag (s.respond (.flag b)).resp b := by
  obtain ⟨w, hw, hbit⟩ := responseOf_flag (Config.freeResp s.answers) b
  exact ⟨w, congrArg some hw, hbit⟩

/-- Settles O33: while the mapper is live each hook is its response. -/
theorem hooksAnswer : Obligations.HooksAnswer := fun s hlive =>
  ⟨whenLive_next_iff.mpr ⟨hlive, rfl⟩, answersFlag_respond_flag s _, whenLive_next_iff.mpr ⟨hlive, rfl⟩,
    whenLive_next_iff.mpr ⟨hlive, rfl⟩, rfl⟩

/-! ### The phase table (R309) -/

theorem whenLive_of_not_live {s : State} (h : s.live = false) (r : Result) :
    s.whenLive r = .refused (.wrongPhase s.phase) := by
  rw [State.whenLive, h]
  rfl

/-- A wrap's descriptor is a trampoline with a valid side effect (R105). -/
theorem eq_tramp_of_okWraprd {hd : Kind} (h : hd.okWraprd = true) :
    ∃ se, hd = .read (.tramp se) ∧ se.wellFormed = true := by
  cases hd with
  | write fn => nomatch h
  | read fn =>
    obtain ⟨hwf, htramp⟩ := Bool.and_eq_true_iff.mp h
    obtain ⟨se, rfl⟩ := readKind_eq_tramp htramp
    exact ⟨se, rfl, hwf⟩

theorem eq_tramp_of_okWrapwr {hd : Kind} (h : hd.okWrapwr = true) :
    ∃ se, hd = .write (.tramp se) ∧ se.wellFormed = true := by
  cases hd with
  | read fn => nomatch h
  | write fn =>
    obtain ⟨hwf, htramp⟩ := Bool.and_eq_true_iff.mp h
    obtain ⟨se, rfl⟩ := writeKind_eq_tramp htramp
    exact ⟨se, rfl, hwf⟩

/-- An install the table shuts out is of a kind of context `MAPPER`, and there is no live mapper (R133). -/
theorem not_live_of_not_legal {s : State} {ctx : Ctx}
    (h : decide (ctx = .none ∨ s.phase = .loaded ∨ s.phase = .mapped) = false) :
    ctx ≠ .none ∧ s.live = false := by
  rw [live_eq, decide_eq_false_iff_not]
  exact not_or.mp (of_decide_eq_false h)

theorem live_of_legal {s : State} {ctx : Ctx}
    (h : decide (ctx = .none ∨ s.phase = .loaded ∨ s.phase = .mapped) = true) : ctx = .none ∨ s.live = true := by
  rw [live_eq, decide_eq_true_iff]
  exact of_decide_eq_true h

/-- Where the table says no: the phase is `DEAD` for `INIT`, and no mapper is live for every other command. -/
theorem exec_of_not_legal {i : Instr} {s : State} (hwf : i.wellFormed = true) (h : legalIn s.phase i = false) :
    exec i s = .refused (.wrongPhase s.phase) := by
  cases i with
  | init => exact if_pos (by simpa [legalIn] using h)
  | applymap | tick | reset | savebatt | extaudio | postaudio | sanitize | applyctlmirror =>
    exact whenLive_of_not_live ((live_eq s).trans h) _
  | setrd sp a hd p =>
    cases hd with
    | write fn => nomatch hwf
    | read fn =>
      have hok : (Kind.read fn).okSetrd = true := hwf
      obtain ⟨hctx, hlive⟩ := not_live_of_not_legal h
      rw [exec, execSetrd, if_pos hok, if_neg hctx, whenLive_of_not_live hlive]
  | setwr sp a hd p =>
    cases hd with
    | read fn => nomatch hwf
    | write fn =>
      have hok : (Kind.write fn).okSetwr = true := hwf
      obtain ⟨hctx, hlive⟩ := not_live_of_not_legal h
      rw [exec, execSetwr, if_pos hok, if_neg hctx, whenLive_of_not_live hlive]
  | wraprd sp a hd p =>
    obtain ⟨se, rfl, hse⟩ := eq_tramp_of_okWraprd hwf
    rw [exec, execWraprd, if_pos hse, whenLive_of_not_live ((live_eq s).trans h)]
  | wrapwr sp a hd p =>
    obtain ⟨se, rfl, hse⟩ := eq_tramp_of_okWrapwr hwf
    rw [exec, execWrapwr, if_pos hse, whenLive_of_not_live ((live_eq s).trans h)]
  | _ => nomatch h

/-- Where the table says yes: a live mapper for the commands that need one, the trampoline invariant for an access,
and a bank size for `NORMBANK`. -/
theorem exec_of_legal {i : Instr} {s : State} (hwf : i.wellFormed = true) (hread : readPartsOf i = none)
    (hwrite : writePartsOf i = none) (h : legalIn s.phase i = true) (hs : s.trampsOk)
    (hsize : ∀ idx mem, i ≠ .normbank idx mem 0) : ∃ t, exec i s = .next t := by
  cases i with
  | init => exact ⟨_, if_neg (by simpa [legalIn] using h)⟩
  | applymap | tick | reset | savebatt | extaudio | postaudio | sanitize | applyctlmirror =>
    exact ⟨_, whenLive_next_iff.mpr ⟨(live_eq s).trans h, rfl⟩⟩
  | teardown | mirroraddr | applymirror | seLatch => exact ⟨_, rfl⟩
  | rd sp a =>
    obtain ⟨t, -, hnext, -⟩ := dispatchRead_completes hs sp (readEntry_ok hs sp a)
    exact ⟨t, hnext⟩
  | wr sp a v =>
    obtain ⟨t, hnext, -⟩ := dispatchWrite_completes hs sp v (writeEntry_ok hs sp a)
    exact ⟨t, hnext⟩
  | setrd sp a hd p =>
    cases hd with
    | write fn => nomatch hwf
    | read fn => exact ⟨_, execSetrd_next_iff.mpr ⟨hwf, live_of_legal h, rfl⟩⟩
  | setwr sp a hd p =>
    cases hd with
    | read fn => nomatch hwf
    | write fn => exact ⟨_, execSetwr_next_iff.mpr ⟨hwf, live_of_legal h, rfl⟩⟩
  | wraprd sp a hd p =>
    obtain ⟨se, rfl, hse⟩ := eq_tramp_of_okWraprd hwf
    exact ⟨_, exec_wraprd ((live_eq s).trans h) hse sp a p⟩
  | wrapwr sp a hd p =>
    obtain ⟨se, rfl, hse⟩ := eq_tramp_of_okWrapwr hwf
    exact ⟨_, exec_wrapwr ((live_eq s).trans h) hse sp a p⟩
  | normbank idx mem size =>
    have hne : size.toNat ≠ 0 := fun h0 => hsize idx mem (by rw [BitVec.eq_of_toNat_eq (y := 0) h0])
    exact ⟨_, if_neg hne⟩
  | rdOpen | rdExternal | rdStore | rdPrg | rdChr | rdChrA12 | rdChrLatched | rdNtDyn | rdTramp => nomatch hread
  | _ => nomatch hwrite

/-- Settles O34: one direction of the table each. -/
theorem phaseTable : Obligations.PhaseTable := fun _ _ hwf hread hwrite =>
  ⟨exec_of_not_legal hwf, exec_of_legal hwf hread hwrite⟩

end Sys2Proof.Proofs
end

section
/-! SUPPORT. The tables `APPLYMAP` builds (spec/47_host_interface.md R302): the entries of steps 1 to 6, one rule per
step and space, and O28 from them; the trampoline rows of step 7, one after the other, and O29 from them. -/

namespace Sys2Proof.Proofs

open Sys2Proof Sys2Proof.Machine Sys2Proof.Laws

/-! ### The windows and rows of a valid record (R271) -/

/-- Where a valid record's windows and trampoline rows lie. -/
theorem ranges_of_variantValid {v : Variant} (hv : variantValid v = true) :
    (∀ w ∈ v.prgWindows, 0x8000 ≤ w.base) ∧ rangesDisjoint (v.prgWindows.map fun w => (w.base, w.size)) = true
    ∧ (∀ w ∈ v.chrWindows, w.base + w.size ≤ 0x2000)
    ∧ rangesDisjoint (v.chrWindows.map fun w => (w.base, w.size)) = true
    ∧ ∀ w ∈ v.wraps, w.addrHi < spaceSize w.space := by
  simp only [variantValid, windowOk, wrapOk, Bool.and_eq_true, List.all_eq_true, decide_eq_true_eq] at hv
  obtain ⟨⟨⟨⟨⟨⟨⟨⟨hprg, hchr⟩, hprgs⟩, hchrs⟩, -⟩, -⟩, -⟩, hwraps⟩, -⟩ := hv
  refine ⟨fun w hw => ?_, hprgs, fun w hw => ?_, hchrs, fun w hw => (hwraps w hw).1.2⟩
  · obtain ⟨⟨⟨-, hlo⟩, -⟩, -⟩ := hprg w hw
    exact hlo
  · obtain ⟨⟨⟨-, hhi⟩, -⟩, -⟩ := hchr w hw
    simpa [Config.patternCount] using hhi

theorem size_eq_two_pow_log2Field {size : Nat} (h : sizeOk size = true) : size = 2 ^ (log2Field size).toNat := by
  obtain ⟨n, -, hn, rfl⟩ := exists_log2_of_sizeOk h
  rw [log2Field, Nat.log2_two_pow, BitVec.toNat_ofNat, Nat.mod_eq_of_lt (by omega)]

/-- Of disjoint ranges the one that covers an address is the one found, wherever it stands in the list (R271 (2)). -/
theorem find?_range {α : Type} {base size : α → Nat} {l : List α}
    (hd : rangesDisjoint (l.map fun x => (base x, size x)) = true) {w : α} (hw : w ∈ l) {a : Nat} (hlo : base w ≤ a)
    (hhi : a < base w + size w) : l.find? (fun x => decide (base x ≤ a ∧ a < base x + size x)) = some w := by
  induction l with
  | nil => nomatch hw
  | cons x t ih =>
    obtain ⟨hx, ht⟩ := Bool.and_eq_true_iff.mp hd
    rcases List.mem_cons.mp hw with rfl | hw
    · exact List.find?_cons_of_pos (decide_eq_true ⟨hlo, hhi⟩)
    · have hsep := List.all_eq_true.mp hx _ (List.mem_map_of_mem hw)
      simp only [Bool.or_eq_true, decide_eq_true_eq] at hsep
      rw [List.find?_cons_of_neg (by simp only [decide_eq_true_eq]; omega)]
      exact ih ht hw

theorem find?_range_eq_none {α : Type} {base size : α → Nat} {l : List α} {a : Nat}
    (h : ∀ w ∈ l, a < base w ∨ base w + size w ≤ a) :
    l.find? (fun x => decide (base x ≤ a ∧ a < base x + size x)) = none :=
  List.find?_eq_none.mpr fun w hw => by
    have := h w hw
    simp only [decide_eq_true_eq]
    omega

/-! ### The entries a record asks for (R302 steps 4, 5) -/

section Windows

variable {v : Variant} {a : Nat}

theorem mapCpuRead_of_window (hv : variantValid v = true) {w : PrgWindow} (hw : w ∈ v.prgWindows) (hlo : w.base ≤ a)
    (hhi : a < w.base + w.size) : mapCpuRead v a = ⟨.prg w.slot (log2Field w.size), .mapper, BitVec.ofNat 16 a⟩ := by
  obtain ⟨-, hd, -⟩ := ranges_of_variantValid hv
  rw [mapCpuRead, find?_range (base := PrgWindow.base) (size := PrgWindow.size) hd hw hlo hhi]

theorem mapCpuRead_of_no_window (h : ∀ w ∈ v.prgWindows, a < w.base ∨ w.base + w.size ≤ a) :
    mapCpuRead v a = readPowerOn := by
  rw [mapCpuRead, find?_range_eq_none (base := PrgWindow.base) (size := PrgWindow.size) h]

theorem mapCpuWrite_of_row {pre post : List CpuWrite} {e : CpuWrite} (hrows : v.cpuWrites = pre ++ e :: post)
    (he : BitVec.ofNat 16 a &&& e.mask = e.pattern) (hpre : ∀ x ∈ pre, BitVec.ofNat 16 a &&& x.mask ≠ x.pattern) :
    mapCpuWrite v a = ⟨e.kind, writeCtx e.kind, BitVec.ofNat 16 a⟩ := by
  have hfind : v.cpuWrites.find? (fun e => BitVec.ofNat 16 a &&& e.mask == e.pattern) = some e :=
    List.find?_eq_some_iff_append.mpr ⟨beq_iff_eq.mpr he, pre, post, hrows, fun x hx => by simpa using hpre x hx⟩
  rw [mapCpuWrite, hfind]

theorem mapCpuWrite_of_no_row (h : ∀ x ∈ v.cpuWrites, BitVec.ofNat 16 a &&& x.mask ≠ x.pattern) :
    mapCpuWrite v a = writePowerOn := by
  rw [mapCpuWrite, List.find?_eq_none.mpr fun x hx => by simpa using h x hx]

theorem writeCtx_eq (k : WriteKind) :
    writeCtx k = if k = .ignore ∨ k = .external ∨ k = .store then .none else .mapper := by
  cases k <;> rfl

theorem chrWindowAt_of_window (hv : variantValid v = true) {w : ChrWindow} (hw : w ∈ v.chrWindows) (hlo : w.base ≤ a)
    (hhi : a < w.base + w.size) : chrWindowAt v a = some w := by
  obtain ⟨-, -, -, hd, -⟩ := ranges_of_variantValid hv
  exact find?_range (base := ChrWindow.base) (size := ChrWindow.size) hd hw hlo hhi

theorem chrWindowAt_of_no_window (h : ∀ w ∈ v.chrWindows, a < w.base ∨ w.base + w.size ≤ a) : chrWindowAt v a = none :=
  find?_range_eq_none (base := ChrWindow.base) (size := ChrWindow.size) h

theorem mapPpuRead_of_no_window (h : ∀ w ∈ v.chrWindows, a < w.base ∨ w.base + w.size ≤ a) :
    mapPpuRead v a = readPowerOn := by
  rw [mapPpuRead, chrWindowAt_of_no_window h]

theorem mapPpuWrite_of_no_window (h : ∀ w ∈ v.chrWindows, a < w.base ∨ w.base + w.size ≤ a) :
    mapPpuWrite v a = writePowerOn := by
  rw [mapPpuWrite, chrWindowAt_of_no_window h]

variable (hv : variantValid v = true) {w : ChrWindow} (hw : w ∈ v.chrWindows) (hlo : w.base ≤ a)
  (hhi : a < w.base + w.size)
include hv hw hlo hhi

theorem mapPpuRead_of_plain {slot : Slot} {init : BitVec 16} (hsrc : w.source = .plain slot init) :
    mapPpuRead v a = ⟨if v.irq = .mmc3 then .chrA12 slot (log2Field w.size) else .chr slot (log2Field w.size), .mapper,
      BitVec.ofNat 16 a⟩ := by
  simp only [mapPpuRead, chrWindowAt_of_window hv hw hlo hhi, hsrc]
  split <;> rfl

theorem mapPpuRead_of_latched {win : Bool} {slotA slotB : Slot} {initA initB : BitVec 16}
    (hsrc : w.source = .latched win slotA slotB initA initB) :
    mapPpuRead v a = ⟨.chrLatched win slotA (log2Field w.size) slotB, .mapper, BitVec.ofNat 16 a⟩ := by
  simp only [mapPpuRead, chrWindowAt_of_window hv hw hlo hhi, hsrc]

theorem mapPpuWrite_of_plain {slot : Slot} {init : BitVec 16} (hsrc : w.source = .plain slot init) :
    mapPpuWrite v a = ⟨if v.irq = .mmc3 then .chrA12 slot (log2Field w.size) else .chr slot (log2Field w.size), .mapper,
      BitVec.ofNat 16 a⟩ := by
  simp only [mapPpuWrite, chrWindowAt_of_window hv hw hlo hhi, hsrc]
  split <;> rfl

theorem mapPpuWrite_of_latched {win : Bool} {slotA slotB : Slot} {initA initB : BitVec 16}
    (hsrc : w.source = .latched win slotA slotB initA initB) : mapPpuWrite v a = writePowerOn := by
  simp only [mapPpuWrite, chrWindowAt_of_window hv hw hlo hhi, hsrc]

end Windows

theorem ofNat_toNat_addr (a : Addr) : BitVec.ofNat 16 a.toNat = a :=
  (BitVec.ofNat_toNat 16 a).trans (BitVec.setWidth_eq a)

/-! ### The entries of each step (R302 steps 1 to 6) -/

/-- Steps 1 and 2 leave what was there, a trampoline giving way to the power-on entry. -/
theorem mapStart_entries {s : State} (hwf : s.tablesWf) (sp : Space) (a : Addr) :
    (mapStart s).readEntry sp a = keptRead s sp a ∧ (mapStart s).writeEntry sp a = keptWrite s sp a := by
  obtain ⟨p, c, h⟩ := mapStart_changes s
  rw [h]
  exact ⟨readEntry_dropTramps hwf sp a, writeEntry_dropTramps hwf sp a⟩

section Steps

variable (s : State) (a : Addr)

/-- Step 3 on the CPU bus. -/
theorem mapPrgRam_cpu :
    s.mapPrgRam.readEntry .cpu a
        = (if 0 < s.params.variant.prgRamSize ∧ 0x6000 ≤ a.toNat ∧ a.toNat < 0x8000 then ⟨.store, .none, a⟩
          else s.readEntry .cpu a)
      ∧ s.mapPrgRam.writeEntry .cpu a
        = if 0 < s.params.variant.prgRamSize ∧ 0x6000 ≤ a.toNat ∧ a.toNat < 0x8000 then ⟨.store, .none, a⟩
          else s.writeEntry .cpu a := by
  unfold State.mapPrgRam
  by_cases hram : 0 < s.params.variant.prgRamSize
  · simp only [hram, if_true, true_and, readEntry_fillEntries, writeEntry_fillEntries, entryIndex, ofNat_toNat_addr]
    exact ⟨rfl, rfl⟩
  · simp only [hram, if_false, false_and, and_self]

/-- Step 4. -/
theorem mapWindows_cpu :
    s.mapWindows.readEntry .cpu a
        = (if 0x8000 ≤ a.toNat then mapCpuRead s.params.variant a.toNat else s.readEntry .cpu a)
      ∧ s.mapWindows.writeEntry .cpu a
        = if 0x8000 ≤ a.toNat then mapCpuWrite s.params.variant a.toNat else s.writeEntry .cpu a := by
  have hhi : a.toNat < Config.prgRomBase + Config.prgRomCount := Nat.lt_of_lt_of_eq a.isLt (by decide)
  have hrange : Config.prgRomBase ≤ a.toNat ∧ a.toNat < Config.prgRomBase + Config.prgRomCount ↔ 0x8000 ≤ a.toNat :=
    and_iff_left hhi
  simp only [State.mapWindows, readEntry_fillEntries, writeEntry_fillEntries, reduceCtorEq, false_and, true_and,
    if_false]
  exact ⟨if_congr hrange rfl rfl, if_congr hrange rfl rfl⟩

/-- Step 6 leaves the CPU bus. -/
theorem mapNametables_cpu :
    s.mapNametables.readEntry .cpu a = s.readEntry .cpu a
      ∧ s.mapNametables.writeEntry .cpu a = s.writeEntry .cpu a := by
  unfold State.mapNametables
  split <;> exact ⟨rfl, rfl⟩

/-- Step 3 leaves the PPU bus. -/
theorem mapPrgRam_ppu :
    s.mapPrgRam.readEntry .ppu a = s.readEntry .ppu a ∧ s.mapPrgRam.writeEntry .ppu a = s.writeEntry .ppu a := by
  unfold State.mapPrgRam
  split <;> exact ⟨rfl, rfl⟩

variable {a} (ha : a.toNat < 16384)
include ha

/-- Step 5. -/
theorem mapWindows_ppu :
    s.mapWindows.readEntry .ppu a
        = (if a.toNat < 0x2000 then mapPpuRead s.params.variant a.toNat else s.readEntry .ppu a)
      ∧ s.mapWindows.writeEntry .ppu a
        = if a.toNat < 0x2000 then mapPpuWrite s.params.variant a.toNat else s.writeEntry .ppu a := by
  have hindex : entryIndex .ppu a = a.toNat := Nat.mod_eq_of_lt ha
  have hrange : 0 ≤ a.toNat ∧ a.toNat < 0 + Config.patternCount ↔ a.toNat < 0x2000 :=
    and_iff_right (Nat.zero_le _)
  simp only [State.mapWindows, readEntry_fillEntries, writeEntry_fillEntries, reduceCtorEq, false_and, true_and,
    if_false, hindex]
  exact ⟨if_congr hrange rfl rfl, if_congr hrange rfl rfl⟩

/-- Step 6, a nametable entry by the mirror strategy. -/
theorem mapNametables_ppu_inside (hlo : 0x2000 ≤ a.toNat) (hhi : a.toNat < 0x3F00) :
    (s.params.variant.mirror = .static →
      s.mapNametables.readEntry .ppu a = ⟨.store, .none, mirrorAddress a s.mirrorMode⟩
        ∧ s.mapNametables.writeEntry .ppu a = ⟨.store, .none, mirrorAddress a s.mirrorMode⟩)
    ∧ (s.params.variant.mirror = .controllable →
      s.mapNametables.readEntry .ppu a = ⟨.ntDyn, .mapper, a⟩
        ∧ s.mapNametables.writeEntry .ppu a = ⟨.ntDyn, .mapper, a⟩) := by
  have hindex : a.toNat % 16384 = a.toNat := Nat.mod_eq_of_lt ha
  constructor <;> intro h <;>
    simp only [State.mapNametables, h, State.applyMirror, State.applyCtlMirror, readEntry_fillNametables,
      writeEntry_fillNametables, hindex, hlo, Nat.le_of_lt_succ hhi, and_self, if_true, ofNat_toNat_addr]

/-- Step 6 leaves the entries outside the nametables. -/
theorem mapNametables_ppu_outside (h : a.toNat < 0x2000 ∨ 0x3F00 ≤ a.toNat) :
    s.mapNametables.readEntry .ppu a = s.readEntry .ppu a
      ∧ s.mapNametables.writeEntry .ppu a = s.writeEntry .ppu a := by
  have hout : ¬ (0x2000 ≤ a.toNat % 16384 ∧ a.toNat % 16384 ≤ 0x3EFF) := by omega
  unfold State.mapNametables State.applyMirror State.applyCtlMirror
  split <;> rw [readEntry_fillNametables, writeEntry_fillNametables, if_neg hout, if_neg hout] <;> exact ⟨rfl, rfl⟩

end Steps

/-! ### O28 -/

theorem mirrorMode_of_sameOutsideTables {s t : State} (h : s.sameOutsideTables t) : t.mirrorMode = s.mirrorMode := by
  obtain ⟨_, _, _, _, _, rfl⟩ := exists_of_sameOutsideTables h
  rfl

/-- Steps 1 to 5 keep the parameters and the mirror mode, which step 6 reads. -/
theorem mapWindows_kept (s : State) :
    (mapStart s).mapPrgRam.mapWindows.params = s.params
      ∧ (mapStart s).mapPrgRam.mapWindows.mirrorMode = s.mirrorMode := by
  have hsame := sameOutsideTables_trans (mapPrgRam_sameOutsideTables (mapStart s)) (mapWindows_sameOutsideTables _)
  obtain ⟨p, c, h⟩ := mapStart_changes s
  rw [params_of_sameOutsideTables hsame, mirrorMode_of_sameOutsideTables hsame, h]
  exact ⟨rfl, rfl⟩

theorem mapPrgRam_params (s : State) : (mapStart s).mapPrgRam.params = s.params :=
  (params_of_sameOutsideTables (mapPrgRam_sameOutsideTables _)).trans (mapStart_params s)

/-- The nametable entries before step 7. -/
theorem mapEntries_nametables (s : State) {a : Addr} (ha : a.toNat < 16384) (hlo : 0x2000 ≤ a.toNat)
    (hhi : a.toNat < 0x3F00) :
    (s.params.variant.mirror = .static →
      (mapEntries s).readEntry .ppu a = ⟨.store, .none, mirrorAddress a s.mirrorMode⟩
        ∧ (mapEntries s).writeEntry .ppu a = ⟨.store, .none, mirrorAddress a s.mirrorMode⟩)
    ∧ (s.params.variant.mirror = .controllable →
      (mapEntries s).readEntry .ppu a = ⟨.ntDyn, .mapper, a⟩
        ∧ (mapEntries s).writeEntry .ppu a = ⟨.ntDyn, .mapper, a⟩) := by
  obtain ⟨hparams, hmode⟩ := mapWindows_kept s
  rw [← hparams, ← hmode]
  exact mapNametables_ppu_inside _ ha hlo hhi

section Entries

variable {s : State} (hwf : s.tablesWf)
include hwf

/-- The CPU entries before step 7. -/
theorem mapEntries_cpu (a : Addr) :
    (mapEntries s).readEntry .cpu a
        = (if 0x8000 ≤ a.toNat then mapCpuRead s.params.variant a.toNat
          else if 0 < s.params.variant.prgRamSize ∧ 0x6000 ≤ a.toNat ∧ a.toNat < 0x8000 then ⟨.store, .none, a⟩
          else keptRead s .cpu a)
      ∧ (mapEntries s).writeEntry .cpu a
        = if 0x8000 ≤ a.toNat then mapCpuWrite s.params.variant a.toNat
          else if 0 < s.params.variant.prgRamSize ∧ 0x6000 ≤ a.toNat ∧ a.toNat < 0x8000 then ⟨.store, .none, a⟩
          else keptWrite s .cpu a := by
  obtain ⟨hread6, hwrite6⟩ := mapNametables_cpu (mapStart s).mapPrgRam.mapWindows a
  obtain ⟨hread4, hwrite4⟩ := mapWindows_cpu (mapStart s).mapPrgRam a
  obtain ⟨hread3, hwrite3⟩ := mapPrgRam_cpu (mapStart s) a
  obtain ⟨hread1, hwrite1⟩ := mapStart_entries hwf .cpu a
  rw [mapEntries, hread6, hread4, hread3, hread1, hwrite6, hwrite4, hwrite3, hwrite1, mapPrgRam_params,
    mapStart_params]
  exact ⟨rfl, rfl⟩

/-- The PPU entries outside the nametables before step 7. -/
theorem mapEntries_ppu {a : Addr} (ha : a.toNat < 16384) (hout : a.toNat < 0x2000 ∨ 0x3F00 ≤ a.toNat) :
    (mapEntries s).readEntry .ppu a
        = (if a.toNat < 0x2000 then mapPpuRead s.params.variant a.toNat else keptRead s .ppu a)
      ∧ (mapEntries s).writeEntry .ppu a
        = if a.toNat < 0x2000 then mapPpuWrite s.params.variant a.toNat else keptWrite s .ppu a := by
  obtain ⟨hread6, hwrite6⟩ := mapNametables_ppu_outside (mapStart s).mapPrgRam.mapWindows ha hout
  obtain ⟨hread5, hwrite5⟩ := mapWindows_ppu (mapStart s).mapPrgRam ha
  obtain ⟨hread3, hwrite3⟩ := mapPrgRam_ppu (mapStart s) a
  obtain ⟨hread1, hwrite1⟩ := mapStart_entries hwf .ppu a
  rw [mapEntries, hread6, hread5, hread3, hread1, hwrite6, hwrite5, hwrite3, hwrite1, mapPrgRam_params]
  exact ⟨rfl, rfl⟩

theorem mappedCpuWrite_mapEntries (a : Addr) : mappedCpuWrite s a ((mapEntries s).writeEntry .cpu a) := by
  have hself : BitVec.ofNat 16 a.toNat = a := ofNat_toNat_addr a
  rw [(mapEntries_cpu hwf a).2]
  refine ⟨fun hrom pre e post hrows he hpre => ?_, fun hrom hnone => ?_, fun hlo hhi hram => ?_, fun hkept => ?_⟩
  · rw [if_pos hrom, mapCpuWrite_of_row hrows (by rwa [hself]) (by rwa [hself]), writeCtx_eq, hself]
  · rw [if_pos hrom, mapCpuWrite_of_no_row (by rwa [hself]), writePowerOn]
  · rw [if_neg (by omega), if_pos ⟨hram, hlo, hhi⟩]
  · rw [if_neg (by omega), if_neg (by omega)]

variable (hv : variantValid s.params.variant = true)
include hv

theorem mappedCpuRead_mapEntries (a : Addr) : mappedCpuRead s a ((mapEntries s).readEntry .cpu a) := by
  obtain ⟨hbase, -⟩ := ranges_of_variantValid hv
  obtain ⟨hsizes, -⟩ := rows_of_variantValid hv
  rw [(mapEntries_cpu hwf a).1]
  refine ⟨fun w hw hlo hhi => ⟨log2Field w.size, size_eq_two_pow_log2Field (hsizes w hw).1, ?_⟩, fun hrom hnone => ?_,
    fun hlo hhi hram => ?_, fun hkept => ?_⟩
  · rw [if_pos ((hbase w hw).trans hlo), mapCpuRead_of_window hv hw hlo hhi, ofNat_toNat_addr]
  · rw [if_pos hrom, mapCpuRead_of_no_window hnone, readPowerOn]
  · rw [if_neg (by omega), if_pos ⟨hram, hlo, hhi⟩]
  · rw [if_neg (by omega), if_neg (by omega)]

theorem mappedPpuRead_mapEntries {a : Addr} (ha : a.toNat < 16384) :
    mappedPpuRead s a ((mapEntries s).readEntry .ppu a) := by
  obtain ⟨-, -, hend, -⟩ := ranges_of_variantValid hv
  obtain ⟨-, hsizes, -⟩ := rows_of_variantValid hv
  have hself : BitVec.ofNat 16 a.toNat = a := ofNat_toNat_addr a
  refine ⟨fun w hw hlo hhi => ⟨log2Field w.size, size_eq_two_pow_log2Field (hsizes w hw).1, ?_⟩,
    fun hpattern hnone => ?_, fun hlo hhi => ?_, fun hkept => ?_⟩
  · have hlt : a.toNat < 0x2000 := hhi.trans_le (hend w hw)
    rw [(mapEntries_ppu hwf ha (.inl hlt)).1, if_pos hlt]
    refine ⟨fun slot init hsrc hirq => ?_, fun slot init hsrc hirq => ?_, fun win slotA slotB initA initB hsrc => ?_⟩
    · rw [mapPpuRead_of_plain hv hw hlo hhi hsrc, if_neg hirq, hself]
    · rw [mapPpuRead_of_plain hv hw hlo hhi hsrc, if_pos hirq, hself]
    · rw [mapPpuRead_of_latched hv hw hlo hhi hsrc, hself]
  · rw [(mapEntries_ppu hwf ha (.inl hpattern)).1, if_pos hpattern, mapPpuRead_of_no_window hnone, readPowerOn]
  · obtain ⟨hstatic, hctl⟩ := mapEntries_nametables s ha hlo hhi
    exact ⟨fun h => (hstatic h).1, fun h => (hctl h).1⟩
  · rw [(mapEntries_ppu hwf ha (.inr hkept)).1, if_neg (by omega)]

theorem mappedPpuWrite_mapEntries {a : Addr} (ha : a.toNat < 16384) :
    mappedPpuWrite s a ((mapEntries s).writeEntry .ppu a) := by
  obtain ⟨-, -, hend, -⟩ := ranges_of_variantValid hv
  obtain ⟨-, hsizes, -⟩ := rows_of_variantValid hv
  have hself : BitVec.ofNat 16 a.toNat = a := ofNat_toNat_addr a
  refine ⟨fun w hw hlo hhi => ⟨log2Field w.size, size_eq_two_pow_log2Field (hsizes w hw).1, ?_⟩,
    fun hpattern hnone => ?_, fun hlo hhi => ?_, fun hkept => ?_⟩
  · have hlt : a.toNat < 0x2000 := hhi.trans_le (hend w hw)
    rw [(mapEntries_ppu hwf ha (.inl hlt)).2, if_pos hlt]
    refine ⟨fun slot init hsrc hirq => ?_, fun slot init hsrc hirq => ?_, fun win slotA slotB initA initB hsrc => ?_⟩
    · rw [mapPpuWrite_of_plain hv hw hlo hhi hsrc, if_neg hirq, hself]
    · rw [mapPpuWrite_of_plain hv hw hlo hhi hsrc, if_pos hirq, hself]
    · rw [mapPpuWrite_of_latched hv hw hlo hhi hsrc, writePowerOn]
  · rw [(mapEntries_ppu hwf ha (.inl hpattern)).2, if_pos hpattern, mapPpuWrite_of_no_window hnone, writePowerOn]
  · obtain ⟨hstatic, hctl⟩ := mapEntries_nametables s ha hlo hhi
    exact ⟨fun h => (hstatic h).2, fun h => (hctl h).2⟩
  · rw [(mapEntries_ppu hwf ha (.inr hkept)).2, if_neg (by omega)]

end Entries

/-! ### The trampoline rows (R302 step 7) -/

theorem wrapCovers_iff {sp : Space} {a : Nat} {w : Wrap} :
    wrapCovers sp a w = true ↔ w.space = sp ∧ w.addrLo ≤ a ∧ a ≤ w.addrHi := by
  simp [wrapCovers, and_assoc]

theorem mapWrap_eq (s : State) (w : Wrap) :
    s.mapWrap w = (List.range' w.addrLo (wrapLength w)).foldl
      (fun s a => s.wrapRead w.space (BitVec.ofNat 16 a) w.se (BitVec.ofNat 16 a)) s := rfl

section OneRow

variable {w : Wrap} (hw : w.addrHi < spaceSize w.space) (s : State)
include hw

/-- The records and entries of one row; a row with crossed bounds covers no address and does nothing. -/
theorem mapWrap_spec :
    (s.mapWrap w).tramp
        = s.tramp ++ (List.range' w.addrLo (wrapLength w)).map
            (fun a => ⟨.rd (s.readEntry w.space (BitVec.ofNat 16 a)), .mapper⟩)
    ∧ (∀ sp (b : Addr), (s.mapWrap w).readEntry sp b
        = if wrapCovers sp (entryIndex sp b) w = true then
            ⟨.tramp w.se, .tramp (s.tramp.length + (entryIndex sp b - w.addrLo)), BitVec.ofNat 16 (entryIndex sp b)⟩
          else s.readEntry sp b)
    ∧ ∀ sp (b : Addr), (s.mapWrap w).writeEntry sp b = s.writeEntry sp b := by
  rw [mapWrap_eq]
  by_cases hrow : w.addrLo ≤ w.addrHi
  · have hend : w.addrLo + wrapLength w = w.addrHi + 1 := by unfold wrapLength; omega
    obtain ⟨hrecs, hread, hwrite⟩ := wrapRow_spec w.space w.se w.addrLo (wrapLength w) (by omega) s
    refine ⟨hrecs, fun sp b => ?_, hwrite⟩
    by_cases hsp : w.space = sp
    · subst hsp
      refine (hread w.space b).trans (if_congr ?_ rfl rfl)
      rw [wrapCovers_iff, hend, Nat.lt_succ_iff]
    · rw [hread, if_neg fun h => hsp h.1.symm, if_neg fun h => hsp (wrapCovers_iff.mp h).1]
  · have hempty : wrapLength w = 0 := by unfold wrapLength; omega
    rw [hempty]
    refine ⟨(List.append_nil _).symm, fun sp b => (if_neg ?_).symm, fun _ _ => rfl⟩
    rw [wrapCovers_iff]
    omega

theorem readEntry_mapWrap_of_covers {a : Addr} (h : wrapCovers w.space a.toNat w = true) :
    (s.mapWrap w).readEntry w.space a = ⟨.tramp w.se, .tramp (s.tramp.length + (a.toNat - w.addrLo)), a⟩ := by
  obtain ⟨-, hread, -⟩ := mapWrap_spec hw s
  have hindex : entryIndex w.space a = a.toNat :=
    entryIndex_of_lt _ _ ((wrapCovers_iff.mp h).2.2.trans_lt hw)
  rw [hread, hindex, if_pos h, ofNat_toNat_addr]

theorem record_mapWrap {a : Addr} (h : wrapCovers w.space a.toNat w = true) :
    (s.mapWrap w).tramp[s.tramp.length + (a.toNat - w.addrLo)]? = some ⟨.rd (s.readEntry w.space a), .mapper⟩ := by
  obtain ⟨hrecs, -, -⟩ := mapWrap_spec hw s
  obtain ⟨-, hlo, hhi⟩ := wrapCovers_iff.mp h
  have hlt : a.toNat - w.addrLo < wrapLength w := by unfold wrapLength; omega
  have haddr : w.addrLo + 1 * (a.toNat - w.addrLo) = a.toNat := by omega
  rw [hrecs, List.getElem?_append_right (Nat.le_add_right _ _), Nat.add_sub_cancel_left, List.getElem?_map,
    List.getElem?_range' hlt, haddr, Option.map_some, ofNat_toNat_addr]

end OneRow

section Rows

variable {l : List Wrap} (hl : ∀ w ∈ l, w.addrHi < spaceSize w.space) (s : State)
include hl

theorem foldl_mapWrap_tramp :
    ∃ recs, (l.foldl State.mapWrap s).tramp = s.tramp ++ recs ∧ recs.length = (l.map wrapLength).sum := by
  induction l generalizing s with
  | nil => exact ⟨[], (List.append_nil _).symm, rfl⟩
  | cons w l ih =>
    obtain ⟨hw, hl⟩ := List.forall_mem_cons.mp hl
    obtain ⟨recs, hrecs, hlen⟩ := ih hl (s.mapWrap w)
    obtain ⟨hrow, -, -⟩ := mapWrap_spec hw s
    refine ⟨_, by rw [List.foldl_cons, hrecs, hrow, List.append_assoc], ?_⟩
    rw [List.length_append, List.length_map, List.length_range', hlen, List.map_cons, List.sum_cons]

theorem readEntry_foldl_mapWrap {sp : Space} {b : Addr} (h : l.any (wrapCovers sp (entryIndex sp b)) = false) :
    (l.foldl State.mapWrap s).readEntry sp b = s.readEntry sp b :=
  List.foldlRecOn (motive := fun t : State => t.readEntry sp b = s.readEntry sp b) l _ rfl fun t ht w hw => by
    obtain ⟨-, hread, -⟩ := mapWrap_spec (hl w hw) t
    rw [hread, if_neg (List.any_eq_false.mp h w hw), ht]

theorem writeEntry_foldl_mapWrap (sp : Space) (b : Addr) :
    (l.foldl State.mapWrap s).writeEntry sp b = s.writeEntry sp b :=
  List.foldlRecOn (motive := fun t : State => t.writeEntry sp b = s.writeEntry sp b) l _ rfl fun t ht w hw => by
    obtain ⟨-, -, hwrite⟩ := mapWrap_spec (hl w hw) t
    rw [hwrite, ht]

end Rows

section RowAmongRows

variable {s : State} (hs : s.tramp = []) {pre post : List Wrap} {w : Wrap}
  (hrows : ∀ x ∈ pre ++ w :: post, x.addrHi < spaceSize x.space) {a : Addr} (hcov : wrapCovers w.space a.toNat w = true)
include hs hrows

theorem length_tramp_before_row : (pre.foldl State.mapWrap s).tramp.length = (pre.map wrapLength).sum := by
  obtain ⟨recs, hrecs, hlen⟩ := foldl_mapWrap_tramp (fun x hx => hrows x (List.mem_append_left _ hx)) s
  rw [hrecs, hs, List.nil_append, hlen]

include hcov

/-- The record of a row at an address holds the entry that the rows before it left there. -/
theorem record_of_row :
    ((pre ++ w :: post).foldl State.mapWrap s).tramp[wrapIndex pre w a.toNat]?
      = some ⟨.rd ((pre.foldl State.mapWrap s).readEntry w.space a), .mapper⟩ := by
  obtain ⟨-, hw, hpost⟩ := List.forall_mem_append.mp hrows |>.imp_right List.forall_mem_cons.mp
  obtain ⟨recs, hrecs, -⟩ := foldl_mapWrap_tramp hpost ((pre.foldl State.mapWrap s).mapWrap w)
  have hrec := record_mapWrap hw (pre.foldl State.mapWrap s) hcov
  rw [length_tramp_before_row hs hrows, ← wrapIndex] at hrec
  rw [List.foldl_append, List.foldl_cons, hrecs, List.getElem?_append_left (List.getElem?_eq_some_iff.mp hrec).1]
  exact hrec

/-- The entry of an address is the trampoline of the last row that covers it. -/
theorem readEntry_of_last_row (hlast : post.any (wrapCovers w.space a.toNat) = false) :
    ((pre ++ w :: post).foldl State.mapWrap s).readEntry w.space a
      = ⟨.tramp w.se, .tramp (wrapIndex pre w a.toNat), a⟩ := by
  obtain ⟨-, hw, hpost⟩ := List.forall_mem_append.mp hrows |>.imp_right List.forall_mem_cons.mp
  have hindex : entryIndex w.space a = a.toNat :=
    entryIndex_of_lt _ _ ((wrapCovers_iff.mp hcov).2.2.trans_lt hw)
  rw [List.foldl_append, List.foldl_cons, readEntry_foldl_mapWrap hpost _ (by rwa [hindex]),
    readEntry_mapWrap_of_covers hw _ hcov, length_tramp_before_row hs hrows, wrapIndex]

end RowAmongRows

/-! ### O28 and O29 -/

theorem mapEntries_tramp (s : State) : (mapEntries s).tramp = [] := by
  have hstart : (mapStart s).tramp = [] := by
    obtain ⟨p, c, h⟩ := mapStart_changes s
    rw [h]
    rfl
  have hram : (mapStart s).mapPrgRam.tramp = (mapStart s).tramp := by
    unfold State.mapPrgRam
    split <;> rfl
  have hnames (t : State) : t.mapNametables.tramp = t.tramp := by
    unfold State.mapNametables
    split <;> rfl
  rw [mapEntries, hnames, State.mapWindows, fillEntries_tramp, fillEntries_tramp, hram, hstart]

theorem applyMap_eq_foldl (s : State) :
    s.applyMap = { s.params.variant.wraps.foldl State.mapWrap (mapEntries s) with phase := .mapped } := by
  rw [applyMap_eq, mapEntries_params]

/-- Settles O28: rows of step 7 change no write half, and no read half they do not cover. -/
theorem applyMapBuildsTheEntries : Obligations.ApplyMapBuildsTheEntries := by
  intro s hwf hv hlive
  obtain ⟨-, -, -, -, hwraps⟩ := ranges_of_variantValid hv
  have hread {sp : Space} {a : Addr} (h : s.params.variant.wraps.any (wrapCovers sp (entryIndex sp a)) = false) :
      s.applyMap.readEntry sp a = (mapEntries s).readEntry sp a := by
    rw [applyMap_eq_foldl]
    exact readEntry_foldl_mapWrap hwraps _ h
  have hwrite (sp : Space) (a : Addr) : s.applyMap.writeEntry sp a = (mapEntries s).writeEntry sp a := by
    rw [applyMap_eq_foldl]
    exact writeEntry_foldl_mapWrap hwraps _ sp a
  refine ⟨s.applyMap, exec_applymap hlive, fun a hcov => ?_, fun a => ?_, fun a ha hcov => ?_, fun a ha => ?_⟩
  · rw [hread hcov]
    exact mappedCpuRead_mapEntries hwf hv a
  · rw [hwrite]
    exact mappedCpuWrite_mapEntries hwf a
  · rw [hread (by rwa [entryIndex_of_lt .ppu a ha])]
    exact mappedPpuRead_mapEntries hwf hv ha
  · rw [hwrite]
    exact mappedPpuWrite_mapEntries hwf hv ha

theorem mappedRead_mapEntries {s : State} (hwf : s.tablesWf) (hv : variantValid s.params.variant = true) {sp : Space}
    {a : Addr} (ha : a.toNat < spaceSize sp) : mappedRead s sp a ((mapEntries s).readEntry sp a) := by
  cases sp with
  | cpu => exact mappedCpuRead_mapEntries hwf hv a
  | ppu => exact mappedPpuRead_mapEntries hwf hv ha

/-- Settles O29: the rows run in list order over the entries of steps 1 to 6, with no record before the first. -/
theorem applyMapBuildsTheTrampolines : Obligations.ApplyMapBuildsTheTrampolines := by
  intro s hwf hv hlive
  obtain ⟨-, -, -, -, hwraps⟩ := ranges_of_variantValid hv
  refine ⟨s.applyMap, exec_applymap hlive, ?_, ?_⟩
  · obtain ⟨recs, hrecs, hlen⟩ := foldl_mapWrap_tramp hwraps (mapEntries s)
    rw [applyMap_eq_foldl, ← hlen]
    exact congrArg List.length (hrecs.trans (by rw [mapEntries_tramp, List.nil_append]))
  intro pre post w a hlist hcov
  rw [applyMap_eq_foldl, hlist]
  rw [hlist] at hwraps
  have hw : w.addrHi < spaceSize w.space := hwraps w (List.mem_append_right _ List.mem_cons_self)
  have ha : a.toNat < spaceSize w.space := (wrapCovers_iff.mp hcov).2.2.trans_lt hw
  have hbefore : ∀ x ∈ pre, x.addrHi < spaceSize x.space := fun x hx => hwraps x (List.mem_append_left _ hx)
  refine ⟨_, record_of_row (mapEntries_tramp s) hwraps hcov, fun hfirst => ?_, fun pre' w' mid hpre hcov' hmid => ?_,
    readEntry_of_last_row (mapEntries_tramp s) hwraps hcov⟩
  · rw [readEntry_foldl_mapWrap hbefore _ (by rwa [entryIndex_of_lt _ _ ha])]
    exact mappedRead_mapEntries hwf hv ha
  · obtain ⟨hspace, -⟩ := wrapCovers_iff.mp hcov'
    subst hpre
    rw [← hspace] at hcov' hmid ⊢
    exact readEntry_of_last_row (mapEntries_tramp s) hbefore hcov' hmid

end Sys2Proof.Proofs
end

section
/-! SUPPORT. The interrupt line (spec/60_exceptions.md R325 to R327): a counter asserts only while it is enabled, what
each instruction may make of the line, and O45. -/

namespace Sys2Proof.Proofs

open Sys2Proof Sys2Proof.Machine Sys2Proof.Laws

/-! ### A counter asserts only while it is enabled -/

/-- Every assertion of the 8-bit counter is gated by E (R184, R327). -/
theorem ctrlE_of_vrc8Tick_asserts {l : VrcBits} {scan : ScanlineClock} {r : Vrc8}
    (h : (vrc8Tick l scan r).2 = true) : ctrlE l r.ctrl = true := by
  rw [vrc8Tick_eq] at h
  exact (Bool.and_eq_true_iff.mp h).2

/-- And of the 16-bit counter, whole or in the 8-bit sub-mode. -/
theorem ctrlE_of_vrc16Tick_asserts {l : VrcBits} {scan : ScanlineClock} {r : Vrc16}
    (h : (vrc16Tick l scan r).2 = true) : ctrlE l r.ctrl = true := by
  cases hs : ctrlS l r.ctrl with
  | false =>
    rw [vrc16Tick_eq_whole l scan r hs] at h
    exact (Bool.and_eq_true_iff.mp h).2
  | true =>
    rw [vrc16Tick_eq_low l scan r hs] at h
    exact (Bool.and_eq_true_iff.mp h).2

theorem enable_of_m3Clock_asserts {alt : Bool} {r : Mmc3} (h : (m3Clock alt r).2 = true) : r.enable = true := by
  rw [m3Clock_eq] at h
  exact (Bool.and_eq_true_iff.mp h).2

/-- A sample that asserts is a qualified rise, so it asserts as its clock does (R193, R327). -/
theorem enable_of_a12Step_asserts {alt high : Bool} {t : Nat} {r : Mmc3} (h : (a12Step alt high t r).2 = true) :
    r.enable = true := by
  cases hinit : r.a12Init with
  | false => rw [a12Step_first alt t hinit] at h; nomatch h
  | true =>
    cases high with
    | false => rw [a12Step_low alt t hinit] at h; nomatch h
    | true =>
      cases hq : a12Qualified r t with
      | false => rw [a12Step_high_of_not_qualified alt t hinit hq] at h; nomatch h
      | true =>
        rw [a12Step_high_of_qualified alt t hinit hq] at h
        exact enable_of_m3Clock_asserts h

/-! ### The line after an instruction -/

/-- The instance holds a VRC counter. -/
def holdsVrc (s : State) : Prop := irqNameOf s.irq = .vrc8 ∨ irqNameOf s.irq = .vrc16

/-- The line that `i` may leave behind it in `s`: kept, raised by an enabled counter, or cleared (R325, R326). -/
inductive LineAfter (s : State) (i : Instr) : Bool → Prop where
  | kept : LineAfter s i s.irqOut
  | ticked (henabled : s.irqEnabled = true) (hi : i = .tick) (hvrc : holdsVrc s) : LineAfter s i true
  | sampled (henabled : s.irqEnabled = true) (hmmc3 : irqNameOf s.irq = .mmc3) (hi : samplesA12 s i) :
      LineAfter s i true
  | cleared (hi : i = .init ∨ i = .reset ∨ i = .teardown) : LineAfter s i false
  | acknowledged (hvrc : holdsVrc s) (hi : ∃ sp param, writeReached s i = some (sp, .vrcAck, param)) :
      LineAfter s i false
  | disabled (hmmc3 : irqNameOf s.irq = .mmc3) (hi : ∃ sp param, writeReached s i = some (sp, .m3Disable, param)) :
      LineAfter s i false

theorem lineAfter_of_eq {s : State} {i : Instr} {line : Bool} (h : line = s.irqOut) : LineAfter s i line :=
  h ▸ .kept

/-- A counter step raises the line where it asserts and keeps it elsewhere. -/
theorem stepIrq_lineAfter {s u : State} {i : Instr} (hline : u.irqOut = s.irqOut) {b : Bool}
    (hraise : b = true → LineAfter s i true) (r : IrqState) : LineAfter s i (u.stepIrq r b).irqOut := by
  cases b with
  | false => exact lineAfter_of_eq hline
  | true => exact hraise rfl

theorem tickIrq_lineAfter (s : State) : LineAfter s .tick s.tickIrq.irqOut := by
  cases hirq : s.irq with
  | vrc8 r =>
    rw [tickIrq_vrc8 hirq]
    refine stepIrq_lineAfter rfl (fun h => .ticked ?_ rfl (.inl (congrArg irqNameOf hirq))) _
    rw [State.irqEnabled, hirq]
    exact ctrlE_of_vrc8Tick_asserts h
  | vrc16 r =>
    rw [tickIrq_vrc16 hirq]
    refine stepIrq_lineAfter rfl (fun h => .ticked ?_ rfl (.inr (congrArg irqNameOf hirq))) _
    rw [State.irqEnabled, hirq]
    exact ctrlE_of_vrc16Tick_asserts h
  | none | mmc3 =>
    rw [State.tickIrq, hirq]
    exact .kept

@[simp] theorem runSideEffects_irq (s : State) (l : List SideEffect) : (s.runSideEffects l).irq = s.irq := by
  rw [runSideEffects_eq, setFamily_irq]

@[simp] theorem runSideEffects_irqOut (s : State) (l : List SideEffect) : (s.runSideEffects l).irqOut = s.irqOut := by
  rw [runSideEffects_eq, setFamily_irqOut]

/-! ### The line after a kind

A kind runs in a state `u` of its own, after the side effects and the last bus value; the counter and the line are
still those of `s`. -/

section Kinds

variable {s u : State} {i : Instr} (hirq : u.irq = s.irq) (hline : u.irqOut = s.irqOut)
include hirq hline

theorem a12Sample_lineAfter (hi : samplesA12 s i) (a : Addr) : LineAfter s i (u.a12Sample a).irqOut := by
  cases hs : s.irq with
  | mmc3 r =>
    have hu : u.irq = .mmc3 r := hirq.trans hs
    by_cases ha : a.toNat ≤ 0x1FFF
    · rw [a12Sample_of_inside hu ha rfl]
      refine stepIrq_lineAfter hline (fun h => .sampled ?_ (congrArg irqNameOf hs) hi) _
      rw [State.irqEnabled, hs]
      exact enable_of_a12Step_asserts h
    · rw [a12Sample_of_outside hu (Nat.lt_of_not_le ha)]
      exact lineAfter_of_eq hline
  | none | vrc8 | vrc16 =>
    rw [a12Sample_of_no_mmc3 (by rw [hirq, hs]; exact nofun)]
    exact lineAfter_of_eq hline

theorem runRead_lineAfter {fn : ReadKind} {sp : Space} {p : Addr} (hreached : readReached s i = some (sp, fn, p))
    (out : Byte) : LineAfter s i (runRead fn sp p out u).1.irqOut := by
  by_cases hext : fn = .external
  · subst hext
    exact lineAfter_of_eq hline
  · by_cases ha12 : ∃ slot n, fn = .chrA12 slot n
    · obtain ⟨slot, n, rfl⟩ := ha12
      exact a12Sample_lineAfter hirq hline ⟨sp, slot, n, p, .inl hreached⟩ p
    · rw [runRead_state hext fun slot n h => ha12 ⟨slot, n, h⟩]
      exact lineAfter_of_eq hline

theorem kindWrVrcAck_lineAfter (hi : ∃ sp p, writeReached s i = some (sp, .vrcAck, p)) :
    LineAfter s i (kindWrVrcAck u).irqOut := by
  cases hs : s.irq with
  | vrc8 r =>
    rw [kindWrVrcAck_vrc8 (hirq.trans hs)]
    exact .acknowledged (.inl (congrArg irqNameOf hs)) hi
  | vrc16 r =>
    rw [kindWrVrcAck_vrc16 (hirq.trans hs)]
    exact .acknowledged (.inr (congrArg irqNameOf hs)) hi
  | none | mmc3 =>
    rw [kindWrVrcAck, hirq, hs]
    exact lineAfter_of_eq hline

theorem kindWrM3Disable_lineAfter (hi : ∃ sp p, writeReached s i = some (sp, .m3Disable, p)) :
    LineAfter s i (kindWrM3Disable u).irqOut := by
  cases hs : s.irq with
  | mmc3 r =>
    rw [kindWrM3Disable_mmc3 (hirq.trans hs)]
    exact .disabled (congrArg irqNameOf hs) hi
  | none | vrc8 | vrc16 =>
    rw [kindWrM3Disable, hirq, hs]
    exact lineAfter_of_eq hline

/-- Of the write kinds only the A12 store, the acknowledge and the disable may change the line (R33). -/
theorem runWrite_lineAfter {fn : WriteKind} {sp : Space} {p : Addr} (hreached : writeReached s i = some (sp, fn, p))
    (v : Byte) : LineAfter s i (runWrite fn sp p v u).irqOut := by
  have hkept (h : mayWriteLine (writeInstr ⟨sp, p, v⟩ 0 fn) = false) : LineAfter s i (runWrite fn sp p v u).irqOut :=
    lineAfter_of_eq (((runWrite_kindFrame ⟨sp, p, v⟩ 0 fn sp p v u).line h).1.trans hline)
  cases fn
  case chrA12 slot n =>
    obtain ⟨m, h⟩ := writeChr_changes (u.a12Sample p) slot n p v
    rw [show runWrite (.chrA12 slot n) sp p v u = _ from h]
    exact a12Sample_lineAfter hirq hline ⟨sp, slot, n, p, .inr hreached⟩ p
  case vrcAck => exact kindWrVrcAck_lineAfter hirq hline ⟨sp, p, hreached⟩
  case m3Disable => exact kindWrM3Disable_lineAfter hirq hline ⟨sp, p, hreached⟩
  case tramp => exact lineAfter_of_eq hline
  all_goals exact hkept rfl

end Kinds

/-! ### O45 -/

/-- What an instruction that completes may make of the line. -/
theorem completes_lineAfter {s t : State} {i : Instr} (h : Completes s i t) : LineAfter s i t.irqOut := by
  have hkept (hi : mayWriteLine i = false) : LineAfter s i t.irqOut :=
    lineAfter_of_eq ((completes_frame h).line hi).1
  cases h with
  | init => rw [initWithRom_eq]; exact .cleared (.inl rfl)
  | reset =>
    obtain ⟨p, c, h⟩ := resetMapper_changes s
    rw [h]
    exact .cleared (.inr (.inl rfl))
  | teardown => exact .cleared (.inr (.inr rfl))
  | tick => exact tickIrq_lineAfter s
  | read _ ses fn c hreached _ =>
    rw [State.readThrough, respond_irqOut, setLast_irqOut]
    exact runRead_lineAfter (runSideEffects_irq ..) (runSideEffects_irqOut ..) hreached _
  | write _ ses fn c hreached _ =>
    exact runWrite_lineAfter (by simp) (by simp) hreached c.v
  | answers _ _ h => cases h <;> exact hkept rfl
  | installs _ _ h => cases h <;> exact hkept rfl
  | _ => exact hkept rfl

/-- Settles O45: of the ways of `LineAfter`, those that end in a raised line and those that end in a cleared one. -/
theorem lineRisesAndFalls : Obligations.LineRisesAndFalls := by
  intro i s t hexec
  have hafter : LineAfter s i t.irqOut := completes_lineAfter (exec_completes hexec)
  generalize t.irqOut = line at hafter
  cases hafter with
  | kept => exact ⟨fun hlow hhigh => absurd (hlow.symm.trans hhigh) nofun,
      fun hhigh hlow => absurd (hlow.symm.trans hhigh) nofun⟩
  | ticked henabled hi hvrc => exact ⟨fun _ _ => ⟨henabled, .inl ⟨hi, hvrc⟩⟩, nofun⟩
  | sampled henabled hmmc3 hi => exact ⟨fun _ _ => ⟨henabled, .inr ⟨hmmc3, hi⟩⟩, nofun⟩
  | cleared hi => exact ⟨nofun, fun _ _ => hi.imp_right (·.imp_right .inl)⟩
  | acknowledged hvrc hi => exact ⟨nofun, fun _ _ => .inr (.inr (.inr (.inl ⟨hvrc, hi⟩)))⟩
  | disabled hmmc3 hi => exact ⟨nofun, fun _ _ => .inr (.inr (.inr (.inr ⟨hmmc3, hi⟩)))⟩

end Sys2Proof.Proofs
end
